-- ==== Sys2Proof/Word.lean ====
section
/-! DEFINITION. The word types of the block's ports and buffers (30_encoding.md R90, 00_scope.md R10). -/

namespace Sys2Proof

/-- One buffer byte: the addressable unit of both buffers (20 R60). -/
abbrev Byte := BitVec 8

/-- A 7-bit bus address (10 R32, 30 R91). -/
abbrev BusAddr := BitVec 7

/-- A handler's 24-bit opaque handle (10 R33). -/
abbrev Handle := BitVec 24

/-- A word of the command port (30 R90). -/
abbrev CmdWord := BitVec 32

/-- A response word (30 R90). -/
abbrev RspWord := BitVec 32

/-- A word of the event port (30 R90). -/
abbrev EvtWord := BitVec 16

/-- A word of the action port (30 R90). -/
abbrev ActWord := BitVec 16

end Sys2Proof
end

