-- ==== Sys2Proof/Config.lean ====
section
/-! DEFINITION. The implementation parameters of 00_scope.md R4 and the free values: what the spec leaves open
is a field of Config or an opaque constant with no body, of which no value can be proved. -/

namespace Sys2Proof

/-- The name of a rate class; R4 asks that one class be named Fast (30 R99). -/
inductive RateName where
  | standard
  | fast
  | other (n : Nat)
  deriving DecidableEq, Repr

/-- One target bit-rate class with its nominal rate (40 R130). -/
structure RateClass where
  name      : RateName
  nominalHz : Nat
  deriving DecidableEq, Repr

/-- One row of DIVIDER_TABLE: a supported bus clock and one ClockSetting per rate class, in the classes' order
(40 R130). -/
structure DividerRow where
  busClockHz : Nat
  settings   : List Byte
  deriving DecidableEq, Repr

/-- OVERFLOW_POLICY (R4): only `silent` is specified. -/
inductive OverflowPolicy where
  | silent
  | other (code : Nat)
  deriving DecidableEq, Repr

/-- The numbers of the five status codes, a parameter of the model (30 R97; log 24). -/
structure StatusCodes where
  success         : BitVec 4
  addressNak      : BitVec 4
  dataNak         : BitVec 4
  arbitrationLost : BitVec 4
  timeout         : BitVec 4
  deriving DecidableEq, Repr

/-- The numbers of 30 R97's table. -/
def StatusCodes.ofSpec : StatusCodes := ⟨0#4, 2#4, 3#4, 4#4, 5#4⟩

/-- The eleven parameters of R4, the status numbers of 30 R97 and the sentinel of 30 R100, fixed for one machine.
No step reads `quantityBits`, `timeout` or `overflowPolicy`: the first is fixed at 8, no rule reads the second
(60 R285), the third has one legal value. -/
structure Config where
  txCapacity     : Nat
  rxCapacity     : Nat
  quantityBits   : Nat
  rateClasses    : List RateClass
  dividerTable   : List DividerRow
  busClockHz     : Nat
  divBits        : Nat
  stopDetect     : Bool
  timeout        : Nat
  /-- `some b`: the configuration fixes the fill byte; `none`: a fresh draw at each use (42 R194). -/
  slaveTxFill    : Option Byte
  overflowPolicy : OverflowPolicy
  statusCodes    : StatusCodes
  /-- the no-data sentinel as a response value (30 R100; log 24) -/
  noData         : BitVec 24
  deriving DecidableEq, Repr

/-! ### The OPEN parameters of R4 (log 6) -/

/-- BUS_CLOCK_HZ is OPEN. -/
opaque Config.openBusClockHz : Nat

/-- TIMEOUT is OPEN. -/
opaque Config.openTimeout : Nat

/-- DIVIDER_TABLE is OPEN: any table at all, well formed or not. -/
opaque Config.anyDividerTable : List DividerRow

/-- The bus clock of a well-formed one-row table, used only where `anyDividerTable` is ill formed. -/
opaque Config.anyRowClockHz : Nat

/-- The first setting of that row. -/
opaque Config.anyRowSetting : Byte

/-! ### What 10 R42 calls unspecified after power-on (log 7, log 8, log 14) -/

/-- `send_stop` after power-on. -/
opaque Config.powerOnSendStop : Bool

/-- `slave_addr` after power-on. -/
opaque Config.powerOnSlaveAddr : BusAddr

/-- `clock_setting` after power-on. -/
opaque Config.powerOnClockSetting : Byte

/-- `pin_scl` after power-on. -/
opaque Config.powerOnPinScl : Byte

/-- `pin_sda` after power-on. -/
opaque Config.powerOnPinSda : Byte

/-- The bus-side unit's divider register after power-on. -/
opaque Config.powerOnUnitDivider : Byte

/-- The byte that index `i` of TX holds before a step writes it, in the buffers' `epoch`-th life. -/
opaque Config.unwrittenTx (epoch i : Nat) : Byte

/-- The byte that index `i` of RX holds before a step writes it, in the buffers' `epoch`-th life. -/
opaque Config.unwrittenRx (epoch i : Nat) : Byte

/-! ### `draw T` of 00 R10: the n-th fresh value of the type (log 9) -/

/-- A drawn bit. -/
opaque Config.freeBit (n : Nat) : Bool

/-- A drawn byte. -/
opaque Config.freeByte (n : Nat) : Byte

/-- A drawn natural. -/
opaque Config.freeNat (n : Nat) : Nat

end Sys2Proof
end

