-- ==== Sys2Proof/Syntax.lean ====
section
/-! DEFINITION. The instructions: one constructor for each row of spec/opcode_table.json (30_encoding.md R101
to R103). Operand widths are those of R91, R93 and R94, so no operand is out of its field's range (R105). -/

namespace Sys2Proof

/-- A word consumed at one of the three ports: 17 commands (consumed by the block), 6 events (consumed by the
block), 12 actions (consumed by the bus-side unit or the host). -/
inductive Instr where
  /-- BEGIN_MASTER (44 R250) -/
  | beginMaster
  /-- BEGIN_SLAVE addr (44 R251) -/
  | beginSlave (addr : BusAddr)
  /-- END (44 R252) -/
  | endUnit
  /-- SET_CLOCK freq (40 R135) -/
  | setClock (freq : BitVec 24)
  /-- GET_RATE (40 R136) -/
  | getRate
  /-- SET_PINS scl, sda (44 R253) -/
  | setPins (scl sda : Byte)
  /-- BEGIN_TX addr (43 R221, R222) -/
  | beginTx (addr : BusAddr)
  /-- WRITE data (43 R223) -/
  | write (data : Byte)
  /-- END_TX stop0 (43 R224) -/
  | endTx (stop : Bool)
  /-- REQ_FROM addr, stop7, quantity (43 R225) -/
  | reqFrom (addr : BusAddr) (stop : Bool) (quantity : Byte)
  /-- GET_RESULT (43 R226) -/
  | getResult
  /-- AVAILABLE (43 R227) -/
  | available
  /-- READ (43 R228) -/
  | read
  /-- PEEK (43 R229) -/
  | peek
  /-- ON_RECEIVE handle (44 R254) -/
  | onReceive (handle : Handle)
  /-- ON_REQUEST handle (44 R255) -/
  | onRequest (handle : Handle)
  /-- CB_RETURN (44 R256) -/
  | cbReturn
  /-- EV_START (41 R170) -/
  | evStart
  /-- EV_BYTE ack, data (41 R171); `ack = true` is ACK (30 R96) -/
  | evByte (ack : Bool) (data : Byte)
  /-- EV_ARB_LOST (41 R172) -/
  | evArbLost
  /-- EV_STOP (41 R173) -/
  | evStop
  /-- EV_ADDR_MATCH data (42 R191) -/
  | evAddrMatch (data : Byte)
  /-- EV_TIMEOUT (41 R174) -/
  | evTimeout
  /-- START (41 R177) -/
  | start
  /-- RESTART (41 R178) -/
  | restart
  /-- SEND data (41 R179) -/
  | send (data : Byte)
  /-- RECV ack (41 R180) -/
  | recv (ack : Bool)
  /-- STOP (41 R181) -/
  | stop
  /-- RELEASE (41 R182) -/
  | release
  /-- CB_RECEIVE count (42 R202) -/
  | cbReceive (count : Byte)
  /-- CB_REQUEST (42 R203) -/
  | cbRequest
  /-- SET_DIV setting (44 R257) -/
  | setDiv (setting : Byte)
  /-- SET_SADDR addr (44 R258) -/
  | setSaddr (addr : BusAddr)
  /-- ENABLE (44 R259) -/
  | enable
  /-- DISABLE (44 R260) -/
  | disable
  deriving DecidableEq, Repr

/-- An action as the block emits it: an entry of the trace `out` (10 R37) and of the action port (30 R94). -/
inductive Act where
  | start
  | restart
  | send (data : Byte)
  | recv (ack : Bool)
  | stop
  | release
  | cbReceive (count : Byte)
  | cbRequest
  | setDiv (setting : Byte)
  | setSaddr (addr : BusAddr)
  | enable
  | disable
  deriving DecidableEq, Repr

/-- A word on one of the three incoming directions (30 R90): the port decides how it is read. -/
inductive PortWord where
  | cmd (w : CmdWord)
  | evt (w : EvtWord)
  | act (w : ActWord)
  deriving DecidableEq, Repr

end Sys2Proof
end

