-- ==== Sys2Proof/WellFormed.lean ====
section
/-! DEFINITION. Well-formedness: the constraint column of 00_scope.md R4 and that of 30_encoding.md R100, one check a parameter, and the two
operands of actions that the configuration bounds (30_encoding.md R94). -/

namespace Sys2Proof

/-- `xs` rises strictly. -/
def strictlyRising : List Nat → Bool
  | [] => true
  | [_] => true
  | x :: y :: rest => decide (x < y) && strictlyRising (y :: rest)

/-- No entry occurs twice. -/
def allDistinct {α : Type} [DecidableEq α] : List α → Bool
  | [] => true
  | x :: rest => !(rest.contains x) && allDistinct rest

namespace Config

/-- 2 ≤ TX_CAPACITY ≤ 256 -/
def txCapacityOk (c : Config) : Bool := decide (2 ≤ c.txCapacity) && decide (c.txCapacity ≤ 256)

/-- 1 ≤ RX_CAPACITY ≤ 255 -/
def rxCapacityOk (c : Config) : Bool := decide (1 ≤ c.rxCapacity) && decide (c.rxCapacity ≤ 255)

/-- QUANTITY_BITS is fixed at 8 -/
def quantityBitsOk (c : Config) : Bool := decide (c.quantityBits = 8)

/-- RATE_CLASSES is non-empty -/
def rateClassesNonempty (c : Config) : Bool := !c.rateClasses.isEmpty

/-- nominal rates strictly increasing -/
def nominalRatesRising (c : Config) : Bool := strictlyRising (c.rateClasses.map RateClass.nominalHz)

/-- RATE_CLASSES contains a class named Fast -/
def hasFastClass (c : Config) : Bool := c.rateClasses.any fun k => decide (k.name = RateName.fast)

/-- 1 ≤ DIV_BITS ≤ 8 -/
def divBitsOk (c : Config) : Bool := decide (1 ≤ c.divBits) && decide (c.divBits ≤ 8)

/-- OVERFLOW_POLICY is Silent -/
def overflowPolicyOk (c : Config) : Bool := decide (c.overflowPolicy = OverflowPolicy.silent)

/-- A row has one setting per class, distinct, each below 2^DIV_BITS -/
def rowOk (classes bits : Nat) (r : DividerRow) : Bool :=
  decide (r.settings.length = classes) && allDistinct r.settings &&
    r.settings.all fun v => decide (v.toNat < 2 ^ bits)

/-- DIVIDER_TABLE is non-empty, its clocks are distinct, every row is well formed -/
def tableOk (classes bits : Nat) (t : List DividerRow) : Bool :=
  !t.isEmpty && allDistinct (t.map DividerRow.busClockHz) && t.all (rowOk classes bits)

/-- The DIVIDER_TABLE check at this configuration's classes and width. -/
def dividerTableOk (c : Config) : Bool := tableOk c.rateClasses.length c.divBits c.dividerTable

/-- NO_DATA is distinct from every byte (30 R100). -/
def noDataOk (c : Config) : Bool := decide (256 ≤ c.noData.toNat)

/-- A configuration is well formed when every constraint of R4 and that of 30 R100 hold. -/
def wf (c : Config) : Bool :=
  c.txCapacityOk && c.rxCapacityOk && c.quantityBitsOk && c.rateClassesNonempty && c.nominalRatesRising &&
    c.hasFastClass && c.divBitsOk && c.overflowPolicyOk && c.noDataOk && c.dividerTableOk

/-- A divider table of which nothing is known but that it is well formed for two classes of 8-bit settings:
any such table may be the value (log 6). -/
def openDividerTable : List DividerRow :=
  if tableOk 2 8 anyDividerTable then anyDividerTable
  else [⟨anyRowClockHz, [anyRowSetting, anyRowSetting ^^^ 1#8]⟩]

/-- The configuration of R4's default column, its OPEN parameters free (log 6). -/
def ofSpec : Config where
  txCapacity := 33
  rxCapacity := 33
  quantityBits := 8
  rateClasses := [⟨.standard, 100000⟩, ⟨.fast, 400000⟩]
  dividerTable := openDividerTable
  busClockHz := openBusClockHz
  divBits := 8
  stopDetect := true
  timeout := openTimeout
  slaveTxFill := none
  overflowPolicy := .silent
  statusCodes := StatusCodes.ofSpec
  noData := 0xFFFFFF#24

end Config

/-- A well-formed instruction for a configuration: a ClockSetting has DIV_BITS bits (R94, 44 R257) and a
CB_RECEIVE count is a count of bytes RX can hold (42 R196). Every other operand fills its field (R91, R93). -/
def Instr.wf (c : Config) : Instr → Bool
  | .beginMaster => true
  | .beginSlave _ => true
  | .endUnit => true
  | .setClock _ => true
  | .getRate => true
  | .setPins _ _ => true
  | .beginTx _ => true
  | .write _ => true
  | .endTx _ => true
  | .reqFrom _ _ _ => true
  | .getResult => true
  | .available => true
  | .read => true
  | .peek => true
  | .onReceive _ => true
  | .onRequest _ => true
  | .cbReturn => true
  | .evStart => true
  | .evByte _ _ => true
  | .evArbLost => true
  | .evStop => true
  | .evAddrMatch _ => true
  | .evTimeout => true
  | .start => true
  | .restart => true
  | .send _ => true
  | .recv _ => true
  | .stop => true
  | .release => true
  | .cbReceive n => decide (n.toNat ≤ c.rxCapacity)
  | .cbRequest => true
  | .setDiv v => decide (v.toNat < 2 ^ c.divBits)
  | .setSaddr _ => true
  | .enable => true
  | .disable => true

/-- The table row an emitted action stands for (R103). -/
def Act.toInstr : Act → Instr
  | .start => .start
  | .restart => .restart
  | .send b => .send b
  | .recv a => .recv a
  | .stop => .stop
  | .release => .release
  | .cbReceive n => .cbReceive n
  | .cbRequest => .cbRequest
  | .setDiv v => .setDiv v
  | .setSaddr a => .setSaddr a
  | .enable => .enable
  | .disable => .disable

/-- A well-formed action: the block emits no other (R94). -/
def Act.wf (c : Config) (a : Act) : Bool := a.toInstr.wf c

end Sys2Proof
end

