-- ==== Sys2Proof/Machine/State.lean ====
section
/-! DEFINITION. The machine's state: the record `S` of 10_state.md R20, the ports around it, and power-on reset
(10 R42, 70 R300). Plain data throughout. -/

namespace Sys2Proof.Machine

/-- `mode` (10 R21). -/
inductive Mode where
  | off
  | master
  | slave
  deriving DecidableEq, Repr

/-- The direction of DataPhase (10 R22). -/
inductive DataDir where
  | write
  | read
  deriving DecidableEq, Repr

/-- The direction of SlaveAddressed (10 R22). -/
inductive SlaveDir where
  | receive
  | transmit
  deriving DecidableEq, Repr

/-- `phase`, the block's program counter: eight values (10 R22, R39). -/
inductive Phase where
  | idle
  | startPending
  | addressPhase
  | dataPhase (d : DataDir)
  | stopPending
  | slaveAddressed (d : SlaveDir)
  deriving DecidableEq, Repr

/-- `txn` (10 R23). -/
inductive Txn where
  | idle
  | transmitting
  | requesting
  | slaveAddressed
  deriving DecidableEq, Repr

/-- `status` (10 R28). -/
inductive Status where
  | success
  | addressNak
  | dataNak
  | arbitrationLost
  | timeout
  deriving DecidableEq, Repr

/-- `cb_active` (10 R34). -/
inductive CbActive where
  | noCallback
  | receive
  | request
  deriving DecidableEq, Repr

/-- Why a command is refused (30 R98). -/
inductive Reason where
  | notBegun
  | alreadyBegun
  | busy
  | inCallback
  | wrongMode
  | notTransmitting
  | stagingOpen
  | noCallback
  | illegalEncoding
  | noStopDetect
  deriving DecidableEq, Repr

/-- The answer to one command (30 R92). A refusal is kept apart from every defined result (00 R7; log 1). -/
inductive Response where
  | value (v : BitVec 24)
  | refused (r : Reason)
  deriving DecidableEq, Repr

/-- Which agent moves next (00 R5, 60 R279; log 2). -/
inductive Turn where
  /-- the host issues its next command -/
  | host
  /-- the bus-side unit offers a pending event: the oldest, or the one at `k` behind address matches that are held
  (60 R279; log 3) -/
  | busEvent (k : Nat)
  /-- the receiver takes the oldest action off the action port -/
  | takeAction
  /-- the wait bound offers EV_TIMEOUT -/
  | waitBound
  deriving DecidableEq, Repr

/-- What the actions tell the bus-side unit (44 R257 to R260, 41 R177 to R182; log 13, log 14). -/
structure BusUnit where
  /-- switched by ENABLE and DISABLE (44 R259, R260) -/
  enabled     : Bool
  /-- the divider register, loaded by SET_DIV (44 R257) -/
  divider     : Byte
  /-- the address to answer to, once SET_SADDR has given one (44 R258) -/
  ownAddr     : Option BusAddr
  /-- the bus request last taken and not abandoned by a RELEASE (10 R41 item 2) -/
  lastRequest : Option Act
  deriving DecidableEq, Repr

/-- A buffer: (index, byte) pairs, indices strictly rising; an unlisted index holds no written byte (20 R60; log 8). -/
abbrev Memory := List Host.Cell

/-- The machine's state. -/
structure State where
  /-- the configuration, written by no step (00 R4; log 5) -/
  cfg          : Config
  mode         : Mode
  phase        : Phase
  txn          : Txn
  transmitting : Bool
  sendStop     : Bool
  busHeld      : Bool
  done         : Bool
  status       : Status
  tx           : Memory
  txLen        : Nat
  txCur        : Nat
  rx           : Memory
  rxLen        : Nat
  rxCur        : Nat
  rxRemaining  : Nat
  slaveAddr    : BusAddr
  cbReceive    : Option Handle
  cbRequest    : Option Handle
  cbActive     : CbActive
  clockSetting : Byte
  pinScl       : Byte
  pinSda       : Byte
  /-- the trace of emitted actions, oldest first (10 R37) -/
  out          : List Act
  /-- the responses given, oldest first (00 R8) -/
  responses    : List Response
  /-- how many values have been drawn (log 9) -/
  draws        : Nat
  /-- which life of the buffers' unspecified bytes this is (log 8, log 9) -/
  bufEpoch     : Nat
  /-- the commands the host will issue, next first (log 2) -/
  commands     : List CmdWord
  /-- the events raised or to be raised and not consumed, in the order of the bus, oldest first (10 R41 item 1,
  60 R278, R279) -/
  events       : List EvtWord
  /-- the actions emitted and not yet taken by their receiver, oldest first (log 13) -/
  actionPort   : List Act
  /-- the turns to come, next first (log 2) -/
  agenda       : List Turn
  busUnit      : BusUnit
  /-- the notifications the host has taken, oldest first (42 R202, R203; log 14) -/
  notices      : List Act
  deriving DecidableEq, Repr

/-- Why the machine stops. The block has no fault state (93 part 1): both are safe stops of the model. -/
inductive Fault where
  /-- Raised by a read of TX at an index that does not exist (20 R71), in states no run reaches. Safe. -/
  | outsideTx (index : Nat)
  /-- Raised by a read of RX at an index that does not exist (20 R71), in states no run reaches. Safe. -/
  | outsideRx (index : Nat)
  deriving DecidableEq, Repr

/-- Why the model has no meaning to give. -/
inductive Refusal where
  /-- Raised by exec's arm of an instruction without a meaning. Safe. -/
  | notModelled (mnemonic : String)
  /-- Raised by powerOn for a configuration that breaks a constraint of 00 R4. Safe. -/
  | illFormedConfiguration
  deriving DecidableEq, Repr

/-- Power-on reset of a machine with configuration `c` (10 R42 column power-on, 70 R300). What the column calls
unspecified is a free value, cut to the field's width (log 7, log 8). -/
def State.afterPowerOn (c : Config) : State where
  cfg := c
  mode := .off
  phase := .idle
  txn := .idle
  transmitting := false
  sendStop := Config.powerOnSendStop
  busHeld := false
  done := false
  status := .success
  tx := []
  txLen := 0
  txCur := 0
  rx := []
  rxLen := 0
  rxCur := 0
  rxRemaining := 0
  slaveAddr := Config.powerOnSlaveAddr
  cbReceive := none
  cbRequest := none
  cbActive := .noCallback
  clockSetting := BitVec.ofNat 8 (Config.powerOnClockSetting.toNat % 2 ^ c.divBits)
  pinScl := Config.powerOnPinScl
  pinSda := Config.powerOnPinSda
  out := []
  responses := []
  draws := 0
  bufEpoch := 0
  commands := []
  events := []
  actionPort := []
  agenda := []
  busUnit := ⟨false, BitVec.ofNat 8 (Config.powerOnUnitDivider.toNat % 2 ^ c.divBits), none, none⟩
  notices := []

/-- Switching the power on: an ill-formed configuration is refused (00 R4; log 5). -/
def State.powerOn (c : Config) : Host.Outcome State Fault Refusal :=
  if c.wf then .next (State.afterPowerOn c) else .refused .illFormedConfiguration

/-- The machine right after power-on, with the spec's default configuration (log 6). -/
def State.reset : State := State.afterPowerOn Config.ofSpec

end Sys2Proof.Machine
end

