-- ==== Sys2Proof/Machine/Actions.lean ====
section
/-! DEFINITION. The twelve actions, as their receiver consumes them (41_master_sequencer.md R177 to R182,
42_slave_sequencer.md R202, R203, 44_lifecycle_callbacks.md R257 to R260; log 13, log 14). The block's own registers
are untouched: the block's part of an action is its emission. -/

namespace Sys2Proof.Machine

/-- The bus-side unit takes a bus request (41 R177 to R181). -/
def takeRequest (a : Act) (s : State) : State := { s with busUnit := { s.busUnit with lastRequest := some a } }

/-- The host takes a notification (42 R202, R203). -/
def takeNotice (a : Act) (s : State) : State := { s with notices := s.notices ++ [a] }

/-- START: a start condition is requested (41 R177). -/
def execStart (s : State) : Host.Outcome State Fault Refusal := .next (takeRequest .start s)

/-- RESTART: a start condition without a preceding stop is requested (41 R178). -/
def execRestart (s : State) : Host.Outcome State Fault Refusal := .next (takeRequest .restart s)

/-- SEND data: the byte is to be shifted out (41 R179). -/
def execSend (data : Byte) (s : State) : Host.Outcome State Fault Refusal := .next (takeRequest (.send data) s)

/-- RECV ack: one byte is to be clocked in and answered (41 R180). -/
def execRecv (ack : Bool) (s : State) : Host.Outcome State Fault Refusal := .next (takeRequest (.recv ack) s)

/-- STOP: a stop condition is requested (41 R181). -/
def execStop (s : State) : Host.Outcome State Fault Refusal := .next (takeRequest .stop s)

/-- RELEASE: the unit returns to its idle state and abandons the request in progress (41 R182). -/
def execRelease (s : State) : Host.Outcome State Fault Refusal :=
  .next { s with busUnit := { s.busUnit with lastRequest := none } }

/-- CB_RECEIVE count: the host is told to run the receive handler (42 R202). -/
def execCbReceive (count : Byte) (s : State) : Host.Outcome State Fault Refusal :=
  .next (takeNotice (.cbReceive count) s)

/-- CB_REQUEST: the host is told to run the request handler (42 R203). -/
def execCbRequest (s : State) : Host.Outcome State Fault Refusal := .next (takeNotice .cbRequest s)

/-- SET_DIV setting: the divider register is loaded (44 R257). -/
def execSetDiv (setting : Byte) (s : State) : Host.Outcome State Fault Refusal :=
  .next { s with busUnit := { s.busUnit with divider := setting } }

/-- SET_SADDR addr: the unit answers to this address (44 R258). -/
def execSetSaddr (addr : BusAddr) (s : State) : Host.Outcome State Fault Refusal :=
  .next { s with busUnit := { s.busUnit with ownAddr := some addr } }

/-- ENABLE: the hardware and its interrupt vector become active (44 R259). -/
def execEnable (s : State) : Host.Outcome State Fault Refusal :=
  .next { s with busUnit := { s.busUnit with enabled := true } }

/-- DISABLE: both become inactive (44 R260). -/
def execDisable (s : State) : Host.Outcome State Fault Refusal :=
  .next { s with busUnit := { s.busUnit with enabled := false } }

end Sys2Proof.Machine
end

