-- ==== Sys2Proof/Machine/Divider.lean ====
section
/-! DEFINITION. The Clock Divider Resolver (40_clock_divider.md R130 to R134): pure functions of a configuration. A
rate class is its index in RATE_CLASSES (30 R99; log 19). -/

namespace Sys2Proof.Machine

/-- `|a - b|` on naturals (20 R81 item 5). -/
def distance (a b : Nat) : Nat := (a - b) + (b - a)

/-- The supported bus clocks, the table's keys (40 R130). -/
def clockKeys (c : Config) : List Nat := c.dividerTable.map DividerRow.busClockHz

/-- The least number of a list; `d` for the empty list. -/
def leastOf (d : Nat) : List Nat → Nat
  | [] => d
  | x :: rest => rest.foldl min x

/-- The greatest number of a list; `d` for the empty list. -/
def greatestOf (d : Nat) : List Nat → Nat
  | [] => d
  | x :: rest => rest.foldl max x

/-- `nearest_clock(hz)`: the key itself, else the nearest key, the higher one on a tie (40 R131). -/
def nearestClock (c : Config) (hz : Nat) : Nat :=
  let keys := clockKeys c
  if keys.contains hz then hz
  else
    let d := leastOf 0 (keys.map (distance · hz))
    greatestOf hz (keys.filter fun k => decide (distance k hz = d))

/-- The row of a bus clock: that of the nearest supported clock (40 R131; log 20). -/
def rowOf (c : Config) (hz : Nat) : DividerRow :=
  match c.dividerTable.find? fun r => decide (r.busClockHz = nearestClock c hz) with
  | some r => r
  | none => ⟨hz, []⟩

/-- A row's setting for a rate class (log 20). -/
def DividerRow.setting (r : DividerRow) (k : Nat) : Byte := r.settings.getD k 0#8

/-- `resolve(class, hz)` (40 R132). -/
def resolve (c : Config) (k hz : Nat) : Byte := DividerRow.setting (rowOf c hz) k

/-- The index of the class named Fast (40 R133). 00 R4 asks that the list contain one and does not exclude two: of
two the model takes the lower index, the slower class (DESIGN CHOICE, log 37). -/
def fastClass (c : Config) : Nat := c.rateClasses.findIdx fun k => decide (k.name = RateName.fast)

/-- `classify(v, hz)`: the first class whose setting is `v`, else Fast (40 R133). -/
def classify (c : Config) (v : Byte) (hz : Nat) : Nat :=
  let row := rowOf c hz
  match (List.range c.rateClasses.length).find? fun k => decide (DividerRow.setting row k = v) with
  | some k => k
  | none => fastClass c

/-- The nominal rate of a class (40 R130). -/
def nominalOf (c : Config) (k : Nat) : Nat :=
  match c.rateClasses[k]? with
  | some r => r.nominalHz
  | none => 0

/-- `rate_class_of(f)`: the fastest class not faster than `f`, else the slowest (40 R134). -/
def rateClassOf (c : Config) (f : Nat) : Nat :=
  ((List.range c.rateClasses.length).filter fun k => decide (nominalOf c k ≤ f)).getLastD 0

end Sys2Proof.Machine
end

