-- ==== Sys2Proof/Decode.lean ====
section
/-! DEFINITION. The decoder (total on every word, rejecting by name) and the encoder, both written from
30_encoding.md R91, R93, R94, R101 to R104 and R109, and the table of matches and masks they are checked against. -/

namespace Sys2Proof

/-- Why a word decodes to nothing (R104): it selects no row of its port's table. -/
inductive DecodeError where
  /-- a CMD word that selects no row of R101 -/
  | illegalCommand
  /-- an EVT word that selects no row of R102 -/
  | illegalEvent
  /-- an ACT word that selects no row of R103 -/
  | illegalAction
  deriving DecidableEq, Repr

/-- The decoder's answer. -/
inductive Decoded where
  | instr (i : Instr)
  | rejected (e : DecodeError)
  deriving DecidableEq, Repr

/-- The field of `w` from bit `lo` up, `len` bits (00 R9). -/
def field {n : Nat} (w : BitVec n) (lo len : Nat) : BitVec len := w.extractLsb' lo len

/-- One bit of `w` as a Boolean: 1 is true. -/
def bitAt {n : Nat} (w : BitVec n) (k : Nat) : Bool := w.getLsbD k

/-- The instruction, where the reserved bits are zero (R91, R93, R94). -/
def whenZero {n : Nat} (reserved : BitVec n) (e : DecodeError) (i : Instr) : Decoded :=
  if reserved = 0#n then .instr i else .rejected e

/-- A CMD word's instruction (R91, R101, R109). -/
def decodeCmd (w : CmdWord) : Decoded :=
  let op := field w 24 8
  if op = 0x01#8 then whenZero (field w 0 24) .illegalCommand .beginMaster
  else if op = 0x02#8 then whenZero (field w 7 17) .illegalCommand (.beginSlave (field w 0 7))
  else if op = 0x03#8 then whenZero (field w 0 24) .illegalCommand .endUnit
  else if op = 0x04#8 then .instr (.setClock (field w 0 24))
  else if op = 0x05#8 then whenZero (field w 0 24) .illegalCommand .getRate
  else if op = 0x06#8 then whenZero (field w 16 8) .illegalCommand (.setPins (field w 8 8) (field w 0 8))
  else if op = 0x10#8 then whenZero (field w 7 17) .illegalCommand (.beginTx (field w 0 7))
  else if op = 0x11#8 then whenZero (field w 8 16) .illegalCommand (.write (field w 0 8))
  else if op = 0x12#8 then whenZero (field w 1 23) .illegalCommand (.endTx (bitAt w 0))
  else if op = 0x13#8 then
    whenZero (field w 16 8) .illegalCommand (.reqFrom (field w 0 7) (bitAt w 7) (field w 8 8))
  else if op = 0x14#8 then whenZero (field w 0 24) .illegalCommand .getResult
  else if op = 0x18#8 then whenZero (field w 0 24) .illegalCommand .available
  else if op = 0x19#8 then whenZero (field w 0 24) .illegalCommand .read
  else if op = 0x1A#8 then whenZero (field w 0 24) .illegalCommand .peek
  else if op = 0x20#8 then .instr (.onReceive (field w 0 24))
  else if op = 0x21#8 then .instr (.onRequest (field w 0 24))
  else if op = 0x22#8 then whenZero (field w 0 24) .illegalCommand .cbReturn
  else .rejected .illegalCommand

/-- An EVT word's instruction (R93, R102, R109). -/
def decodeEvt (w : EvtWord) : Decoded :=
  let code := field w 12 4
  if code = 0x1#4 then whenZero (field w 0 12) .illegalEvent .evStart
  else if code = 0x2#4 then whenZero (field w 9 3) .illegalEvent (.evByte (bitAt w 8) (field w 0 8))
  else if code = 0x3#4 then whenZero (field w 0 12) .illegalEvent .evArbLost
  else if code = 0x4#4 then whenZero (field w 0 12) .illegalEvent .evStop
  else if code = 0x5#4 then whenZero (field w 8 4) .illegalEvent (.evAddrMatch (field w 0 8))
  else if code = 0x6#4 then whenZero (field w 0 12) .illegalEvent .evTimeout
  else .rejected .illegalEvent

/-- An ACT word's instruction (R94, R103). -/
def decodeAct (w : ActWord) : Decoded :=
  let code := field w 12 4
  if code = 0x1#4 then whenZero (field w 0 12) .illegalAction .start
  else if code = 0x2#4 then whenZero (field w 0 12) .illegalAction .restart
  else if code = 0x3#4 then whenZero (field w 8 4) .illegalAction (.send (field w 0 8))
  else if code = 0x4#4 then
    if field w 9 3 = 0#3 then whenZero (field w 0 8) .illegalAction (.recv (bitAt w 8))
    else .rejected .illegalAction
  else if code = 0x5#4 then whenZero (field w 0 12) .illegalAction .stop
  else if code = 0x6#4 then whenZero (field w 0 12) .illegalAction .release
  else if code = 0x8#4 then whenZero (field w 8 4) .illegalAction (.cbReceive (field w 0 8))
  else if code = 0x9#4 then whenZero (field w 0 12) .illegalAction .cbRequest
  else if code = 0xA#4 then whenZero (field w 8 4) .illegalAction (.setDiv (field w 0 8))
  else if code = 0xB#4 then whenZero (field w 7 5) .illegalAction (.setSaddr (field w 0 7))
  else if code = 0xC#4 then whenZero (field w 0 12) .illegalAction .enable
  else if code = 0xD#4 then whenZero (field w 0 12) .illegalAction .disable
  else .rejected .illegalAction

/-- The decoder: the port decides which table a word is read by (R90). -/
def decode : PortWord → Decoded
  | .cmd w => decodeCmd w
  | .evt w => decodeEvt w
  | .act w => decodeAct w

/-- A Boolean as one bit: true is 1. -/
def bit1 (b : Bool) : BitVec 1 := BitVec.ofBool b

/-- A CMD word: the opcode over the 24-bit operand area (R91). -/
def cmdWord (op : BitVec 8) (operands : BitVec 24) : PortWord := .cmd (op ++ operands)

/-- An EVT word: the code over the 12 bits below it (R93). -/
def evtWord (code : BitVec 4) (rest : BitVec 12) : PortWord := .evt (code ++ rest)

/-- An ACT word: the code over the 12 bits below it (R94). -/
def actWord (code : BitVec 4) (rest : BitVec 12) : PortWord := .act (code ++ rest)

/-- The encoder: every operand in its field, every reserved bit zero (R91, R93, R94, R101 to R103). -/
def encode : Instr → PortWord
  | .beginMaster => cmdWord 0x01#8 0#24
  | .beginSlave a => cmdWord 0x02#8 (0#17 ++ a)
  | .endUnit => cmdWord 0x03#8 0#24
  | .setClock f => cmdWord 0x04#8 f
  | .getRate => cmdWord 0x05#8 0#24
  | .setPins scl sda => cmdWord 0x06#8 (0#8 ++ scl ++ sda)
  | .beginTx a => cmdWord 0x10#8 (0#17 ++ a)
  | .write d => cmdWord 0x11#8 (0#16 ++ d)
  | .endTx st => cmdWord 0x12#8 (0#23 ++ bit1 st)
  | .reqFrom a st q => cmdWord 0x13#8 (0#8 ++ q ++ bit1 st ++ a)
  | .getResult => cmdWord 0x14#8 0#24
  | .available => cmdWord 0x18#8 0#24
  | .read => cmdWord 0x19#8 0#24
  | .peek => cmdWord 0x1A#8 0#24
  | .onReceive h => cmdWord 0x20#8 h
  | .onRequest h => cmdWord 0x21#8 h
  | .cbReturn => cmdWord 0x22#8 0#24
  | .evStart => evtWord 0x1#4 0#12
  | .evByte ack d => evtWord 0x2#4 (0#3 ++ bit1 ack ++ d)
  | .evArbLost => evtWord 0x3#4 0#12
  | .evStop => evtWord 0x4#4 0#12
  | .evAddrMatch d => evtWord 0x5#4 (0#4 ++ d)
  | .evTimeout => evtWord 0x6#4 0#12
  | .start => actWord 0x1#4 0#12
  | .restart => actWord 0x2#4 0#12
  | .send d => actWord 0x3#4 (0#4 ++ d)
  | .recv ack => actWord 0x4#4 (0#3 ++ bit1 ack ++ 0#8)
  | .stop => actWord 0x5#4 0#12
  | .release => actWord 0x6#4 0#12
  | .cbReceive n => actWord 0x8#4 (0#4 ++ n)
  | .cbRequest => actWord 0x9#4 0#12
  | .setDiv v => actWord 0xA#4 (0#4 ++ v)
  | .setSaddr a => actWord 0xB#4 (0#5 ++ a)
  | .enable => actWord 0xC#4 0#12
  | .disable => actWord 0xD#4 0#12

/-- The 16-bit word of an event, as it stands at the event port. -/
def eventWord (i : Instr) : EvtWord :=
  match encode i with
  | .evt w => w
  | .cmd w => w.setWidth 16
  | .act w => w

/-- The 16-bit word of an action, as a trace prints it (R94, R103). -/
def Act.word (a : Act) : ActWord :=
  match encode a.toInstr with
  | .act w => w
  | .cmd w => w.setWidth 16
  | .evt w => w

/-- The action that a decoded row of R103 stands for. -/
def Instr.toAct? : Instr → Option Act
  | .beginMaster => none
  | .beginSlave _ => none
  | .endUnit => none
  | .setClock _ => none
  | .getRate => none
  | .setPins _ _ => none
  | .beginTx _ => none
  | .write _ => none
  | .endTx _ => none
  | .reqFrom _ _ _ => none
  | .getResult => none
  | .available => none
  | .read => none
  | .peek => none
  | .onReceive _ => none
  | .onRequest _ => none
  | .cbReturn => none
  | .evStart => none
  | .evByte _ _ => none
  | .evArbLost => none
  | .evStop => none
  | .evAddrMatch _ => none
  | .evTimeout => none
  | .start => some .start
  | .restart => some .restart
  | .send b => some (.send b)
  | .recv a => some (.recv a)
  | .stop => some .stop
  | .release => some .release
  | .cbReceive n => some (.cbReceive n)
  | .cbRequest => some .cbRequest
  | .setDiv v => some (.setDiv v)
  | .setSaddr a => some (.setSaddr a)
  | .enable => some .enable
  | .disable => some .disable

/-- The action a 16-bit word stands for on the action port. -/
def actOf? (w : ActWord) : Option Act :=
  match decodeAct w with
  | .instr i => i.toAct?
  | .rejected _ => none

/-- The instruction of a table row's word: 32 bits are a CMD word; 16 bits are read as an EVT word, and as an ACT
word where no event has that word (log 15: the two 16-bit tables share numbers). -/
def decodeTableWord (nbits w : Nat) : Option Instr :=
  if nbits = 16 then
    if w < 2 ^ 16 then
      match decodeEvt (BitVec.ofNat 16 w) with
      | .instr i => some i
      | .rejected _ =>
        match decodeAct (BitVec.ofNat 16 w) with
        | .instr i => some i
        | .rejected _ => none
    else none
  else if nbits = 32 then
    if w < 2 ^ 32 then
      match decodeCmd (BitVec.ofNat 32 w) with
      | .instr i => some i
      | .rejected _ => none
    else none
  else none

/-! ### The tables of matches and masks (R101, R102, R103), for checking the decoder against -/

/-- R101: (match, mask) of each command row. -/
def cmdRows : List (CmdWord × CmdWord) :=
  [(0x01000000#32, 0xFFFFFFFF#32), (0x02000000#32, 0xFFFFFF80#32), (0x03000000#32, 0xFFFFFFFF#32),
   (0x04000000#32, 0xFF000000#32), (0x05000000#32, 0xFFFFFFFF#32), (0x06000000#32, 0xFFFF0000#32)] ++
  [(0x10000000#32, 0xFFFFFF80#32), (0x11000000#32, 0xFFFFFF00#32), (0x12000000#32, 0xFFFFFFFE#32),
   (0x13000000#32, 0xFFFF0000#32), (0x14000000#32, 0xFFFFFFFF#32)] ++
  [(0x18000000#32, 0xFFFFFFFF#32), (0x19000000#32, 0xFFFFFFFF#32), (0x1A000000#32, 0xFFFFFFFF#32),
   (0x20000000#32, 0xFF000000#32), (0x21000000#32, 0xFF000000#32), (0x22000000#32, 0xFFFFFFFF#32)]

/-- R102: (match, mask) of each event row. -/
def evtRows : List (EvtWord × EvtWord) :=
  [(0x1000#16, 0xFFFF#16), (0x2000#16, 0xFE00#16), (0x3000#16, 0xFFFF#16), (0x4000#16, 0xFFFF#16),
   (0x5000#16, 0xFF00#16), (0x6000#16, 0xFFFF#16)]

/-- R103: (match, mask) of each action row. -/
def actRows : List (ActWord × ActWord) :=
  [(0x1000#16, 0xFFFF#16), (0x2000#16, 0xFFFF#16), (0x3000#16, 0xFF00#16), (0x4000#16, 0xFEFF#16),
   (0x5000#16, 0xFFFF#16), (0x6000#16, 0xFFFF#16)] ++
  [(0x8000#16, 0xFF00#16), (0x9000#16, 0xFFFF#16), (0xA000#16, 0xFF00#16), (0xB000#16, 0xFF80#16),
   (0xC000#16, 0xFFFF#16), (0xD000#16, 0xFFFF#16)]

/-- A word selects a row when `w & mask = match` (R101). -/
def selectsRow {n : Nat} (rows : List (BitVec n × BitVec n)) (w : BitVec n) : Bool :=
  rows.any fun r => decide (w &&& r.2 = r.1)

end Sys2Proof
end

