-- ==== Sys2Proof/Machine/Operands.lean ====
section
/-! DEFINITION. Operand forms: the address byte, the fields of an address match, the numeric codes and the
response values (30_encoding.md R92, R95 to R100). -/

namespace Sys2Proof.Machine

/-- The address byte: the 7-bit address over the R/W bit, 1 for read (30 R95). -/
def addressByte (addr : BusAddr) (read : Bool) : Byte :=
  (addr.setWidth 8 <<< 1) ||| (BitVec.ofBool read).setWidth 8

/-- The address in an address byte: bits 7:1 (30 R95). -/
def addressOf (b : Byte) : BusAddr := b.extractLsb' 1 7

/-- The R/W bit of an address byte: bit 0, true for read (30 R95). -/
def readBit (b : Byte) : Bool := b.getLsbD 0

/-- A status's number among the machine's codes (30 R97; log 24). -/
def statusCode (codes : StatusCodes) : Status → BitVec 4
  | .success => codes.success
  | .addressNak => codes.addressNak
  | .dataNak => codes.dataNak
  | .arbitrationLost => codes.arbitrationLost
  | .timeout => codes.timeout

/-- The refusal reason codes (30 R98). -/
def reasonCode : Reason → BitVec 7
  | .notBegun => 1#7
  | .alreadyBegun => 2#7
  | .busy => 3#7
  | .inCallback => 4#7
  | .wrongMode => 5#7
  | .notTransmitting => 6#7
  | .stagingOpen => 7#7
  | .noCallback => 8#7
  | .illegalEncoding => 9#7
  | .noStopDetect => 10#7

/-- The RSP word: refused bit, reason, value (30 R92). -/
def responseWord : Response → RspWord
  | .value v => 0#1 ++ 0#7 ++ v
  | .refused r => 1#1 ++ reasonCode r ++ 0#24

/-- A count as a response value (30 R92). -/
def countValue (n : Nat) : BitVec 24 := BitVec.ofNat 24 n

/-- The value of a READ or PEEK: a byte, or the machine's NO_DATA (30 R92, R100; log 24). -/
def readValue (noData : BitVec 24) : Option Byte → BitVec 24
  | some b => b.setWidth 24
  | none => noData

/-- The sign extension of a response value, `sext_32(RSP[23:0])` (30 R109). -/
def sext32 (v : BitVec 24) : BitVec 32 := v.signExtend 32

/-- A READ or PEEK response as the caller sees it: a signed number, -1 or 0 to 255 with the spec's NO_DATA
(30 R92, R100, R109). -/
def signedValue (v : BitVec 24) : Int := (sext32 v).toInt

/-- The byte-count operand of CB_RECEIVE (30 R94; log 17). -/
def countByte (n : Nat) : Byte := BitVec.ofNat 8 n

end Sys2Proof.Machine
end

