-- ==== Sys2Proof/Machine/Flags.lean ====
section
/-! DEFINITION. The flags as commands and events see them: what a GET_RESULT packs (43_host_commands.md R226), which
phases are a master transaction in flight (41_master_sequencer.md R166), and the acceptance gate (43 R220). -/

namespace Sys2Proof.Machine

/-- GET_RESULT's value: `done` in bit 16, the status code in bits 11:8, `rx_len` in bits 7:0 (30 R92, 43 R226; log 17). -/
def resultValue (s : State) : BitVec 24 :=
  0#7 ++ BitVec.ofBool s.done ++ 0#4 ++ statusCode s.cfg.statusCodes s.status ++ BitVec.ofNat 8 s.rxLen

/-- The five master phases in flight (41 R166, R167). -/
def Phase.masterInFlight : Phase → Bool
  | .idle => false
  | .startPending => true
  | .addressPhase => true
  | .dataPhase _ => true
  | .stopPending => true
  | .slaveAddressed _ => false

/-- The commands by name, for the sets of the gate. -/
inductive Command where
  | beginMaster
  | beginSlave
  | endUnit
  | setClock
  | getRate
  | setPins
  | beginTx
  | write
  | endTx
  | reqFrom
  | getResult
  | available
  | read
  | peek
  | onReceive
  | onRequest
  | cbReturn
  deriving DecidableEq, Repr

/-- Gate line 1: the commands accepted in `mode = Off`. -/
def acceptedOff : List Command := [.beginMaster, .beginSlave, .endUnit, .setPins, .onReceive, .onRequest]

/-- Gate line 3: the commands accepted inside a callback. -/
def acceptedInCallback : List Command :=
  [.available, .read, .peek, .write, .getRate, .onReceive, .onRequest, .cbReturn]

/-- Gate line 5: the master transaction commands. -/
def masterCommands : List Command := [.beginTx, .endTx, .reqFrom]

/-- Gate line 6: the commands accepted in flight. -/
def acceptedInFlight : List Command := [.getResult, .getRate, .write, .onReceive, .onRequest]

/-- Gate line 6: the commands that read RX. -/
def rxReaders : List Command := [.available, .read, .peek]

/-- The acceptance gate, lines 1 to 7 (43 R220): `none` is accepted. Line 0 is the decoder's. -/
def gate (c : Command) (s : State) : Option Reason :=
  if s.mode = .off then
    if acceptedOff.contains c then none else some .notBegun
  else if c = .beginMaster ∨ c = .beginSlave then some .alreadyBegun
  else if s.cbActive ≠ .noCallback then
    if acceptedInCallback.contains c then none else some .inCallback
  else if c = .cbReturn then some .noCallback
  else if s.mode = .slave ∧ masterCommands.contains c = true then some .wrongMode
  else if s.phase ≠ .idle then
    if acceptedInFlight.contains c then none
    else if rxReaders.contains c then
      if s.txn = .requesting ∨ s.phase = .slaveAddressed .receive then some .busy else none
    else some .busy
  else if c = .endTx ∧ s.transmitting = false then some .notTransmitting
  else if c = .reqFrom ∧ s.transmitting = true then some .stagingOpen
  else none

end Sys2Proof.Machine
end

