-- ==== Sys2Proof/Machine/Ops.lean ====
section
/-! DEFINITION. The named operations over the buffers and registers: memory, the ports, draws, the buffer
primitives of 20_memory.md R62 to R69, the procedures that end a transaction (41_master_sequencer.md R161 to R165),
taking an error (60_exceptions.md R280) and entering and leaving a handler (42 R193, R196, 44 R256). -/

namespace Sys2Proof.Machine

/-! ### A buffer as memory (20 R60; log 8) -/

/-- The byte written at index `i`, if one was. -/
def Memory.read? (m : Memory) (i : Nat) : Option Byte :=
  match m with
  | [] => none
  | (j, b) :: rest => if i = j then some b else Memory.read? rest i

/-- Writes `b` at index `i`, keeping the indices strictly rising. -/
def Memory.write (m : Memory) (i : Nat) (b : Byte) : Memory :=
  match m with
  | [] => [(i, b)]
  | (j, c) :: rest =>
    if i < j then (i, b) :: (j, c) :: rest
    else if i = j then (i, b) :: rest
    else (j, c) :: Memory.write rest i b

/-- Every index of `m` is above `i`. -/
def Memory.above (i : Nat) : Memory → Bool
  | [] => true
  | (j, _) :: rest => decide (i < j) && Memory.above i rest

/-- The canonical form: indices strictly rising. An unlisted index has no byte, so no entry can equal it. -/
def Memory.wf : Memory → Bool
  | [] => true
  | (i, _) :: rest => Memory.above i rest && Memory.wf rest

/-- Every listed index is below `n`. -/
def Memory.below (n : Nat) (m : Memory) : Bool := m.all fun c => decide (c.1 < n)

namespace State

/-- The byte at index `i` of TX: the byte written there, else the free value of an unwritten index; `none` where
the index does not exist (20 R60, R71; log 8, log 12). -/
def txByte? (s : State) (i : Nat) : Option Byte :=
  if i < s.cfg.txCapacity then some ((s.tx.read? i).getD (Config.unwrittenTx s.bufEpoch i)) else none

/-- The byte at index `i` of RX, likewise. -/
def rxByte? (s : State) (i : Nat) : Option Byte :=
  if i < s.cfg.rxCapacity then some ((s.rx.read? i).getD (Config.unwrittenRx s.bufEpoch i)) else none

/-! ### The ports -/

/-- `emit a`: append to the trace and put the action on the action port (00 R10, 10 R37; log 13). -/
def emit (s : State) (a : Act) : State := { s with out := s.out ++ [a], actionPort := s.actionPort ++ [a] }

/-- `respond v` (00 R10). -/
def respond (s : State) (v : BitVec 24) : State := { s with responses := s.responses ++ [.value v] }

/-- `refuse(r)`: the state is unchanged, the response carries the reason (00 R7; log 1). -/
def refuse (s : State) (r : Reason) : State := { s with responses := s.responses ++ [.refused r] }

/-- `hold`: the event is not consumed, it stays pending in the bus-side unit, in its place: only the oldest event is
ever held (00 R7, 60 R278; log 3). -/
def hold (s : State) (i : Instr) : State := { s with events := eventWord i :: s.events }

/-! ### The buffer primitives -/

/-- `stageAddress(addr, rw)` (20 R62). -/
def stageAddress (s : State) (addr : BusAddr) (read : Bool) : State :=
  { s with tx := s.tx.write 0 (addressByte addr read), txLen := 1, txCur := 0 }

/-- `stageByte(b)`: the state after and the number of bytes accepted (20 R63). -/
def stageByte (s : State) (b : Byte) : State × Nat :=
  if s.txLen < s.cfg.txCapacity then ({ s with tx := s.tx.write s.txLen b, txLen := s.txLen + 1 }, 1)
  else (s, 0)

/-- `stageBytes(bytes)`: the state after and the number of bytes accepted (20 R64). -/
def stageBytes (s : State) : List Byte → State × Nat
  | [] => (s, 0)
  | b :: rest =>
    let one := s.stageByte b
    let more := one.1.stageBytes rest
    (more.1, one.2 + more.2)

/-- `resetRx()` (20 R65). -/
def resetRx (s : State) : State := { s with rxLen := 0, rxCur := 0 }

/-- `pushReceived(b)` (20 R66). -/
def pushReceived (s : State) (b : Byte) : State :=
  if s.rxLen < s.cfg.rxCapacity then { s with rx := s.rx.write s.rxLen b, rxLen := s.rxLen + 1 } else s

/-- `availableToRead()` (20 R67). -/
def availableToRead (s : State) : Nat := s.rxLen - s.rxCur

/-- `peek()`: the next byte, or `none` for NO_DATA (20 R68). -/
def peek (s : State) : Except Fault (Option Byte) :=
  if s.rxCur < s.rxLen then
    match s.rxByte? s.rxCur with
    | some b => .ok (some b)
    | none => .error (.outsideRx s.rxCur)
  else .ok none

/-- `takeByte()`: the next byte or `none` for NO_DATA, and the state after (20 R69). -/
def takeByte (s : State) : Except Fault (Option Byte × State) :=
  if s.rxCur < s.rxLen then
    match s.rxByte? s.rxCur with
    | some b => .ok (some b, { s with rxCur := s.rxCur + 1 })
    | none => .error (.outsideRx s.rxCur)
  else .ok (none, s)

/-! ### Ending a master transaction -/

/-- `complete()` (41 R163). -/
def complete (s : State) : State :=
  { s with
    rxCur := if s.txn = .requesting then 0 else s.rxCur
    phase := .idle
    txn := .idle
    done := true }

/-- `force_stop()` (41 R162, R183). -/
def forceStop (s : State) : State :=
  if s.cfg.stopDetect then { s.emit .stop with phase := .stopPending } else (s.emit .stop).complete

/-- `finish_ok()` (41 R161). -/
def finishOk (s : State) : State :=
  if s.sendStop then { s with status := .success }.forceStop
  else { s with status := .success, busHeld := true }.complete

/-- `abort(st)` (41 R165). -/
def abort (s : State) (st : Status) : State :=
  if st = .timeout ∧ s.txn = .requesting then
    { { s with status := st }.emit .release with rxLen := 0, rxCur := 0 }.complete
  else ({ s with status := st }.emit .release).complete

/-- Taking an error, `raise E`: write the class, then force a stop (the two NAK classes) or abort (the other two),
in the same step (60 R280). -/
def raise (s : State) (e : Status) : State :=
  match e with
  | .success => s
  | .addressNak => { s with status := .addressNak }.forceStop
  | .dataNak => { s with status := .dataNak }.forceStop
  | .arbitrationLost => s.abort .arbitrationLost
  | .timeout => s.abort .timeout

/-! ### Handlers -/

/-- Invoking a handler: from here every event is held (42 R193, R196, R200). -/
def enterHandler (s : State) (c : CbActive) (a : Act) : State := { s with cbActive := c }.emit a

/-- Return from a handler: it restores nothing but `cb_active = None` (60 R282). -/
def leaveHandler (s : State) : State := { s with cbActive := .noCallback }

/-! ### Draws (00 R10; log 9, log 10, log 11) -/

/-- `SLAVE_TX_FILL` if the configuration fixes it, else a drawn byte; and the state after (42 R194). -/
def fillByte (s : State) : Byte × State :=
  match s.cfg.slaveTxFill with
  | some b => (b, s)
  | none => (Config.freeByte s.draws, { s with draws := s.draws + 1 })

/-- What END leaves of the buffers: every byte drawn afresh, lengths and cursors drawn within
`cur <= len <= capacity` (44 R252). -/
def scrambleBuffers (s : State) : State :=
  let txLen := Config.freeNat s.draws % (s.cfg.txCapacity + 1)
  let rxLen := Config.freeNat (s.draws + 2) % (s.cfg.rxCapacity + 1)
  { s with
    tx := []
    txLen := txLen
    txCur := Config.freeNat (s.draws + 1) % (txLen + 1)
    rx := []
    rxLen := rxLen
    rxCur := Config.freeNat (s.draws + 3) % (rxLen + 1)
    bufEpoch := s.bufEpoch + 1
    draws := s.draws + 4 }

end State

/-! ### The two skeletons -/

/-- A command: the gate, then its own rule (43 R220). -/
def command (c : Command) (s : State) (body : State → Host.Outcome State Fault Refusal) :
    Host.Outcome State Fault Refusal :=
  match gate c s with
  | some r => .next (s.refuse r)
  | none => body s

/-- An event that is ignored in `mode = Off` and held while a handler is active (41 R170 to R173, R175, 42 R200). -/
def event (i : Instr) (s : State) (inMaster inSlave : State → Host.Outcome State Fault Refusal) :
    Host.Outcome State Fault Refusal :=
  match s.mode with
  | .off => .next s
  | .master => if s.cbActive = .noCallback then inMaster s else .next (s.hold i)
  | .slave => if s.cbActive = .noCallback then inSlave s else .next (s.hold i)

/-- Goes on with `f` where a next state was reached. -/
def mapNext (f : State → State) : Host.Outcome State Fault Refusal → Host.Outcome State Fault Refusal
  | .next s => .next (f s)
  | .fault r => .fault r
  | .refused r => .refused r

end Sys2Proof.Machine
end

