-- ==== Sys2Proof/Machine/Clock.lean ====
section
/-! DEFINITION. The two commands of the Clock Divider Resolver (40_clock_divider.md R135, R136). -/

namespace Sys2Proof.Machine

/-- SET_CLOCK freq (40 R135). -/
def execSetClock (freq : BitVec 24) (s : State) : Host.Outcome State Fault Refusal :=
  command .setClock s fun s =>
    let v := resolve s.cfg (rateClassOf s.cfg freq.toNat) s.cfg.busClockHz
    .next (({ s with clockSetting := v }.emit (.setDiv v)).respond 0#24)

/-- GET_RATE (40 R136). -/
def execGetRate (s : State) : Host.Outcome State Fault Refusal :=
  command .getRate s fun s => .next (s.respond (countValue (classify s.cfg s.clockSetting s.cfg.busClockHz)))

end Sys2Proof.Machine
end

