-- ==== Sys2Proof/Machine/Sequencer.lean ====
section
/-! DEFINITION. The procedures of the sequencer: start_master, write_next, read_next and the master event rules
(41_master_sequencer.md R151 to R160), slave_receive_entry, slave_transmit_entry, slave_send and the end of a slave
transaction (42_slave_sequencer.md R192 to R199). -/

namespace Sys2Proof.Machine

/-- `start_master(kind)` (41 R151). -/
def startMaster (kind : Txn) (s : State) : State :=
  { s.emit (if s.busHeld then .restart else .start) with
    txn := kind
    done := false
    status := .success
    txCur := 0
    busHeld := false
    phase := .startPending }

/-- EV_START in StartPending: the address byte goes out (41 R152). -/
def sendAddress (s : State) : Host.Outcome State Fault Refusal :=
  match s.txByte? 0 with
  | some b => .next { s.emit (.send b) with txCur := 1, phase := .addressPhase }
  | none => .fault (.outsideTx 0)

/-- `write_next()` (41 R156). -/
def writeNext (s : State) : Host.Outcome State Fault Refusal :=
  if s.txCur < s.txLen then
    match s.txByte? s.txCur with
    | some b => .next { s.emit (.send b) with txCur := s.txCur + 1, phase := .dataPhase .write }
    | none => .fault (.outsideTx s.txCur)
  else .next s.finishOk

/-- `read_next()` (41 R159). -/
def readNext (s : State) : State :=
  if s.rxRemaining = 0 then s.finishOk
  else { s.emit (.recv (decide (s.rxRemaining ≠ 1))) with phase := .dataPhase .read }

/-- EV_BYTE in AddressPhase (41 R153, R154, R155). A `txn` that no master transaction has is a pair R169 does not
list: ignored (log 21). -/
def addressAnswered (ack : Bool) (s : State) : Host.Outcome State Fault Refusal :=
  if ack then
    match s.txn with
    | .transmitting => writeNext { s with phase := .dataPhase .write }
    | .requesting => .next (readNext { s with phase := .dataPhase .read })
    | .idle => .next s
    | .slaveAddressed => .next s
  else .next (s.raise .addressNak)

/-- EV_BYTE in DataPhase(write) (41 R157, R158). -/
def byteAnswered (ack : Bool) (s : State) : Host.Outcome State Fault Refusal :=
  if ack then writeNext s else .next (s.raise .dataNak)

/-- EV_BYTE in DataPhase(read) (41 R160). -/
def byteArrived (data : Byte) (s : State) : State :=
  let kept := s.pushReceived data
  readNext { kept with rxRemaining := kept.rxRemaining - 1 }

/-- `slave_send()` (42 R194). -/
def slaveSend (s : State) : Host.Outcome State Fault Refusal :=
  if s.txCur < s.txLen then
    match s.txByte? s.txCur with
    | some b => .next { s.emit (.send b) with txCur := s.txCur + 1 }
    | none => .fault (.outsideTx s.txCur)
  else .next (s.fillByte.2.emit (.send s.fillByte.1))

/-- `slave_receive_entry()` (42 R192). -/
def slaveReceiveEntry (s : State) : State :=
  { s with txn := .slaveAddressed, phase := .slaveAddressed .receive }.resetRx

/-- `slave_transmit_entry(data)` (42 R193). -/
def slaveTransmitEntry (data : Byte) (s : State) : Host.Outcome State Fault Refusal :=
  let t : State :=
    { s with
      txn := .slaveAddressed
      phase := .slaveAddressed .transmit
      tx := s.tx.write 0 data
      txLen := 1
      txCur := 1 }
  match t.cbRequest with
  | some _ => .next (t.enterHandler .request .cbRequest)
  | none => slaveSend t

/-- The end of a slave transaction: back to Idle (42 R198, R199). -/
def slaveDone (s : State) : State := { s with phase := .idle, txn := .idle }

/-- The end of a remote write: delivery to the receive handler, if one is registered (42 R196). -/
def slaveDeliver (s : State) : State :=
  match s.cbReceive with
  | some _ => (slaveDone s).enterHandler .receive (.cbReceive (countByte s.rxLen))
  | none => (slaveDone s)

end Sys2Proof.Machine
end

