-- ==== Sys2Proof/Machine/Events.lean ====
section
/-! DEFINITION. The six events: dispatch by mode, handler and phase (41_master_sequencer.md R169 to R176,
42_slave_sequencer.md R191, R200, R201). Where a table says ignore, the state is unchanged (log 29). -/

namespace Sys2Proof.Machine

/-- EV_START (41 R170): R152 in StartPending, R196 and R199 when addressed as a slave. -/
def execEvStart (s : State) : Host.Outcome State Fault Refusal :=
  event .evStart s
    (fun s => if s.phase = .startPending then sendAddress s else .next s)
    (fun s =>
      match s.phase with
      | .slaveAddressed .receive => .next (slaveDeliver s)
      | .slaveAddressed .transmit => .next (slaveDone s)
      | .idle => .next s
      | .startPending => .next s
      | .addressPhase => .next s
      | .dataPhase _ => .next s
      | .stopPending => .next s)

/-- EV_BYTE ack, data (41 R171): R153 to R160 as master, R195, R197, R198 as slave. -/
def execEvByte (ack : Bool) (data : Byte) (s : State) : Host.Outcome State Fault Refusal :=
  event (.evByte ack data) s
    (fun s =>
      match s.phase with
      | .addressPhase => addressAnswered ack s
      | .dataPhase .write => byteAnswered ack s
      | .dataPhase .read => .next (byteArrived data s)
      | .idle => .next s
      | .startPending => .next s
      | .stopPending => .next s
      | .slaveAddressed _ => .next s)
    (fun s =>
      match s.phase with
      | .slaveAddressed .receive => .next (s.pushReceived data)
      | .slaveAddressed .transmit => if ack then slaveSend s else .next (slaveDone s)
      | .idle => .next s
      | .startPending => .next s
      | .addressPhase => .next s
      | .dataPhase _ => .next s
      | .stopPending => .next s)

/-- EV_ARB_LOST (41 R172): R166 in a master phase in flight; a slave does not arbitrate. -/
def execEvArbLost (s : State) : Host.Outcome State Fault Refusal :=
  event .evArbLost s
    (fun s => if s.phase.masterInFlight then .next (s.raise .arbitrationLost) else .next s)
    (fun s => .next s)

/-- EV_STOP (41 R173): R164 in StopPending, R196 and R199 when addressed as a slave. -/
def execEvStop (s : State) : Host.Outcome State Fault Refusal :=
  event .evStop s
    (fun s => if s.phase = .stopPending then .next s.complete else .next s)
    (fun s =>
      match s.phase with
      | .slaveAddressed .receive => .next (slaveDeliver s)
      | .slaveAddressed .transmit => .next (slaveDone s)
      | .idle => .next s
      | .startPending => .next s
      | .addressPhase => .next s
      | .dataPhase _ => .next s
      | .stopPending => .next s)

/-- EV_ADDR_MATCH data (42 R191): ignored unless a slave; held while a handler is active or already addressed. -/
def execEvAddrMatch (data : Byte) (s : State) : Host.Outcome State Fault Refusal :=
  match s.mode with
  | .off => .next s
  | .master => .next s
  | .slave =>
    if s.cbActive ≠ .noCallback then .next (s.hold (.evAddrMatch data))
    else if s.phase ≠ .idle then .next (s.hold (.evAddrMatch data))
    else if addressOf data ≠ s.slaveAddr then .next s
    else if readBit data then slaveTransmitEntry data s
    else .next (slaveReceiveEntry s)

/-- EV_TIMEOUT (41 R174): R167 in a master phase in flight, ignored everywhere else and never held. -/
def execEvTimeout (s : State) : Host.Outcome State Fault Refusal :=
  match s.mode with
  | .off => .next s
  | .master => if s.phase.masterInFlight then .next (s.raise .timeout) else .next s
  | .slave => .next s

end Sys2Proof.Machine
end

