-- ==== Sys2Proof/Machine/Lifecycle.lean ====
section
/-! DEFINITION. Lifecycle, pin and handler commands (44_lifecycle_callbacks.md R250 to R256). -/

namespace Sys2Proof.Machine

/-- `init_common()` (44 R250): `send_stop` is a drawn bit (log 9). -/
def initCommon (s : State) : State :=
  { s with
    phase := .idle
    txn := .idle
    transmitting := false
    busHeld := false
    done := false
    status := .success
    txLen := 0
    txCur := 0
    rxLen := 0
    rxCur := 0
    rxRemaining := 0
    cbActive := .noCallback
    sendStop := Config.freeBit s.draws
    draws := s.draws + 1
    clockSetting := resolve s.cfg 0 s.cfg.busClockHz }

/-- ENABLE, then SET_DIV of the initial divider (44 R250, R251). -/
def announce (s : State) : State := (s.emit .enable).emit (.setDiv s.clockSetting)

/-- BEGIN_MASTER (44 R250). -/
def execBeginMaster (s : State) : Host.Outcome State Fault Refusal :=
  command .beginMaster s fun s => .next ((announce { initCommon s with mode := .master }).respond 0#24)

/-- BEGIN_SLAVE addr (44 R251); refused NO_STOP_DETECT where stops are not detected. -/
def execBeginSlave (addr : BusAddr) (s : State) : Host.Outcome State Fault Refusal :=
  command .beginSlave s fun s =>
    if s.cfg.stopDetect then
      .next (((announce { initCommon s with slaveAddr := addr, mode := .slave }).emit (.setSaddr addr)).respond 0#24)
    else .next (s.refuse .noStopDetect)

/-- END (44 R252). -/
def execEndUnit (s : State) : Host.Outcome State Fault Refusal :=
  command .endUnit s fun s =>
    if s.mode = .off then .next (s.respond 0#24)
    else
      let released := (if s.busHeld then s.emit .release else s).emit .disable
      .next ({ released.scrambleBuffers with
        mode := .off
        transmitting := false
        busHeld := false
        done := false }.respond 0#24)

/-- SET_PINS scl, sda (44 R253). -/
def execSetPins (scl sda : Byte) (s : State) : Host.Outcome State Fault Refusal :=
  command .setPins s fun s => .next ({ s with pinScl := scl, pinSda := sda }.respond 0#24)

/-- ON_RECEIVE handle (44 R254). -/
def execOnReceive (handle : Handle) (s : State) : Host.Outcome State Fault Refusal :=
  command .onReceive s fun s => .next ({ s with cbReceive := some handle }.respond 0#24)

/-- ON_REQUEST handle (44 R255). -/
def execOnRequest (handle : Handle) (s : State) : Host.Outcome State Fault Refusal :=
  command .onRequest s fun s => .next ({ s with cbRequest := some handle }.respond 0#24)

/-- CB_RETURN (44 R256): after a request handler the first staged byte, or the fill byte, goes out. -/
def execCbReturn (s : State) : Host.Outcome State Fault Refusal :=
  command .cbReturn s fun s =>
    mapNext (fun t => t.respond 0#24)
      (if s.cbActive = .request then slaveSend s.leaveHandler else .next s.leaveHandler)

end Sys2Proof.Machine
end

