-- ==== Sys2Proof/Machine/Transactions.lean ====
section
/-! DEFINITION. The transaction commands of the host (43_host_commands.md R221 to R229). -/

namespace Sys2Proof.Machine

/-- BEGIN_TX addr (43 R221); with staging open already, nothing changes (43 R222). -/
def execBeginTx (addr : BusAddr) (s : State) : Host.Outcome State Fault Refusal :=
  command .beginTx s fun s =>
    if s.transmitting then .next (s.respond 0#24)
    else .next ({ s.stageAddress addr false with transmitting := true }.respond 0#24)

/-- WRITE data (43 R223). -/
def execWrite (data : Byte) (s : State) : Host.Outcome State Fault Refusal :=
  command .write s fun s =>
    if s.transmitting = true ∨ s.cbActive = .request then
      .next ((s.stageByte data).1.respond (countValue (s.stageByte data).2))
    else .next (s.respond 0#24)

/-- END_TX stop0, the issue half of endTransmission (43 R224). -/
def execEndTx (stop : Bool) (s : State) : Host.Outcome State Fault Refusal :=
  command .endTx s fun s =>
    .next ((startMaster .transmitting { s with sendStop := stop, transmitting := false }).respond 0#24)

/-- REQ_FROM addr, stop7, quantity, the issue half of requestFrom (43 R225). -/
def execReqFrom (addr : BusAddr) (stop : Bool) (quantity : Byte) (s : State) : Host.Outcome State Fault Refusal :=
  command .reqFrom s fun s =>
    .next ((startMaster .requesting
      { (s.stageAddress addr true).resetRx with rxRemaining := quantity.toNat, sendStop := stop }).respond 0#24)

/-- GET_RESULT (43 R226). -/
def execGetResult (s : State) : Host.Outcome State Fault Refusal :=
  command .getResult s fun s => .next (s.respond (resultValue s))

/-- AVAILABLE (43 R227). -/
def execAvailable (s : State) : Host.Outcome State Fault Refusal :=
  command .available s fun s => .next (s.respond (countValue s.availableToRead))

/-- READ (43 R228). -/
def execRead (s : State) : Host.Outcome State Fault Refusal :=
  command .read s fun s =>
    match s.takeByte with
    | .ok (v, t) => .next (t.respond (readValue s.cfg.noData v))
    | .error f => .fault f

/-- PEEK (43 R229). -/
def execPeek (s : State) : Host.Outcome State Fault Refusal :=
  command .peek s fun s =>
    match s.peek with
    | .ok v => .next (s.respond (readValue s.cfg.noData v))
    | .error f => .fault f

end Sys2Proof.Machine
end

