-- ==== Sys2Proof/Machine/Dispatch.lean ====
section
/-! DEFINITION. One arm per instruction: the call of its meaning. -/

namespace Sys2Proof.Machine

def exec (i : Instr) (s : State) : Host.Outcome State Fault Refusal :=
  match i with
  -- commands
  | .beginMaster => Sys2Proof.Machine.execBeginMaster s
  | .beginSlave addr => Sys2Proof.Machine.execBeginSlave addr s
  | .endUnit => Sys2Proof.Machine.execEndUnit s
  | .setClock freq => Sys2Proof.Machine.execSetClock freq s
  | .getRate => Sys2Proof.Machine.execGetRate s
  | .setPins scl sda => Sys2Proof.Machine.execSetPins scl sda s
  | .beginTx addr => Sys2Proof.Machine.execBeginTx addr s
  | .write data => Sys2Proof.Machine.execWrite data s
  | .endTx stop => Sys2Proof.Machine.execEndTx stop s
  | .reqFrom addr stop quantity => Sys2Proof.Machine.execReqFrom addr stop quantity s
  | .getResult => Sys2Proof.Machine.execGetResult s
  | .available => Sys2Proof.Machine.execAvailable s
  | .read => Sys2Proof.Machine.execRead s
  | .peek => Sys2Proof.Machine.execPeek s
  | .onReceive handle => Sys2Proof.Machine.execOnReceive handle s
  | .onRequest handle => Sys2Proof.Machine.execOnRequest handle s
  | .cbReturn => Sys2Proof.Machine.execCbReturn s
  -- events
  | .evStart => Sys2Proof.Machine.execEvStart s
  | .evByte ack data => Sys2Proof.Machine.execEvByte ack data s
  | .evArbLost => Sys2Proof.Machine.execEvArbLost s
  | .evStop => Sys2Proof.Machine.execEvStop s
  | .evAddrMatch data => Sys2Proof.Machine.execEvAddrMatch data s
  | .evTimeout => Sys2Proof.Machine.execEvTimeout s
  -- actions
  | .start => Sys2Proof.Machine.execStart s
  | .restart => Sys2Proof.Machine.execRestart s
  | .send data => Sys2Proof.Machine.execSend data s
  | .recv ack => Sys2Proof.Machine.execRecv ack s
  | .stop => Sys2Proof.Machine.execStop s
  | .release => Sys2Proof.Machine.execRelease s
  | .cbReceive count => Sys2Proof.Machine.execCbReceive count s
  | .cbRequest => Sys2Proof.Machine.execCbRequest s
  | .setDiv setting => Sys2Proof.Machine.execSetDiv setting s
  | .setSaddr addr => Sys2Proof.Machine.execSetSaddr addr s
  | .enable => Sys2Proof.Machine.execEnable s
  | .disable => Sys2Proof.Machine.execDisable s

end Sys2Proof.Machine
end

