-- ==== Sys2Proof/Machine/Ports.lean ====
section
/-! DEFINITION. Fetching: which word the next turn brings and what is left of the ports (00_scope.md R5 to R7,
60_exceptions.md R278, R279; log 2, log 3, log 4), and placing one word to be fetched (log 16). -/

namespace Sys2Proof.Machine

/-- What a turn brings to the machine. -/
inductive Fetched where
  /-- no agent has anything to offer -/
  | nothing
  /-- a word that decodes -/
  | instr (i : Instr)
  /-- a CMD word that selects no row (30 R104) -/
  | illegalCommand
  /-- an EVT word that selects no row (30 R104) -/
  | illegalEvent
  deriving DecidableEq, Repr

/-- A command word off the command port (30 R90). -/
def readCommand (w : CmdWord) : Fetched :=
  match decode (.cmd w) with
  | .instr i => .instr i
  | .rejected _ => .illegalCommand

/-- An event word off the event port (30 R90). -/
def readEvent (w : EvtWord) : Fetched :=
  match decode (.evt w) with
  | .instr i => .instr i
  | .rejected _ => .illegalEvent

/-- An address match that the block holds because it is addressed already: it stays pending until an EV_START or
EV_STOP has ended the slave transaction (42 R191, R201). -/
def heldMatch (s : State) (w : EvtWord) : Bool :=
  decide (s.mode = .slave ∧ s.cbActive = .noCallback ∧ s.phase ≠ .idle) && decide (field w 8 8 = 0x50#8)

/-- The pending event that the bus-side unit offers at a turn that names `k`. Events are offered in the order of the
bus, oldest first (60 R279); only a held address match lets the events behind it pass (log 3). -/
def offered? (s : State) (k : Nat) : Option EvtWord :=
  match s.events[k]? with
  | none => none
  | some w =>
    if k = 0 ∨ ((s.events.take k).all (heldMatch s) = true ∧ heldMatch s w = false) then some w else none

/-- One turn: the word it brings, taken off its port (log 2, log 3). -/
def takeTurn (t : Turn) (s : State) : Fetched × State :=
  match t with
  | .host =>
    match s.commands with
    | [] => (.nothing, s)
    | w :: rest => (readCommand w, { s with commands := rest })
  | .busEvent k =>
    match offered? s k with
    | none => (.nothing, s)
    | some w => (readEvent w, { s with events := s.events.eraseIdx k })
  | .takeAction =>
    match s.actionPort with
    | [] => (.nothing, s)
    | a :: rest => (.instr a.toInstr, { s with actionPort := rest })
  | .waitBound => (.instr .evTimeout, s)

/-- The next turn of the agenda; an empty agenda brings nothing (log 4). -/
def fetch (s : State) : Fetched × State :=
  match s.agenda with
  | [] => (.nothing, s)
  | t :: rest => takeTurn t { s with agenda := rest }

/-- Places a command word to be consumed next. -/
def placeCommand (s : State) (w : CmdWord) : State :=
  { s with commands := w :: s.commands, agenda := .host :: s.agenda }

/-- Places an event word to be offered next. -/
def placeEvent (s : State) (w : EvtWord) : State :=
  { s with events := w :: s.events, agenda := .busEvent 0 :: s.agenda }

/-- Places an action to be taken next. -/
def placeAction (s : State) (a : Act) : State :=
  { s with actionPort := a :: s.actionPort, agenda := .takeAction :: s.agenda }

/-- Places a 16-bit word where decodeTableWord reads it: an event if some event has it, else an action, else an
undecodable event word (log 15). -/
def placeShortWord (s : State) (w : BitVec 16) : State :=
  match decodeEvt w with
  | .instr _ => placeEvent s w
  | .rejected _ =>
    match actOf? w with
    | some a => placeAction s a
    | none => placeEvent s w

end Sys2Proof.Machine
end

