-- ==== Sys2Proof/Machine/Step.lean ====
section
/-! DEFINITION. One step: the next turn's word is fetched, decoded and run (00_scope.md R6, R7). -/

namespace Sys2Proof.Machine

/-- One step. An undecodable command is refused ILLEGAL_ENCODING, an undecodable event ignored (30 R104); a turn
that brings nothing changes nothing but the agenda (log 4). -/
def step (s : State) : Host.Outcome State Fault Refusal :=
  match fetch s with
  | (.nothing, t) => .next t
  | (.instr i, t) => exec i t
  | (.illegalCommand, t) => .next (t.refuse .illegalEncoding)
  | (.illegalEvent, t) => .next t

/-- `s` with one word placed so that the very next step consumes it: 16 bits or fewer at the event or action
port, more at the command port (log 15, log 16). -/
def State.withFetchWord (s : State) (nbits w : Nat) : State :=
  if nbits ≤ 16 then placeShortWord s (BitVec.ofNat 16 w) else placeCommand s (BitVec.ofNat 32 w)

end Sys2Proof.Machine
end

