-- ==== Sys2Proof/Machine/Pseudo.lean ====
section
/-! DEFINITION. Sequences of consumed words, and the source's entry points as host programs (30_encoding.md R108, R109,
43_host_commands.md R230 to R232). An entry point with no definition of its own here is `call` of its command, and
one that returns to the caller from a handler is `call .cbReturn`. -/

namespace Sys2Proof.Machine

/-- Consumes the words of `is` in order, stopping at the first fault or refusal. -/
def execAll (is : List Instr) (s : State) : Host.Outcome State Fault Refusal :=
  match is with
  | [] => .next s
  | i :: rest =>
    match exec i s with
    | .next t => execAll rest t
    | .fault r => .fault r
    | .refused r => .refused r

/-- The value of the last response, if it is no refusal. -/
def lastValue (s : State) : Option (BitVec 24) :=
  match s.responses.getLast? with
  | some (.value v) => some v
  | some (.refused _) => none
  | none => none

/-- Issues one command and takes its response's value: `none` where it is refused (the call has no defined result,
00 R7) or the machine stops. -/
def call (i : Instr) (s : State) : Option (BitVec 24 × State) :=
  match exec i s with
  | .next t => (lastValue t).map fun v => (v, t)
  | .fault _ => none
  | .refused _ => none

/-- `write(bytes, n)` as commands: one WRITE a byte, in order (30 R108, 43 R232). -/
def writeBytes (bs : List Byte) : List Instr := bs.map Instr.write

/-- `write(bytes, n)`: issues the WRITEs in order and returns the sum of their response values (30 R108, 43 R232). -/
def writeAll (bs : List Byte) (s : State) : Option (Nat × State) :=
  match bs with
  | [] => some (0, s)
  | b :: rest =>
    match call (.write b) s with
    | some (v, t) => (writeAll rest t).map fun r => (v.toNat + r.1, r.2)
    | none => none

/-- `read()`: the response value as a signed number (30 R108, R109). -/
def readSigned (s : State) : Option (Int × State) := (call .read s).map fun r => (signedValue r.1, r.2)

/-- `peek()`: the response value as a signed number (30 R108, R109). -/
def peekSigned (s : State) : Option (Int × State) := (call .peek s).map fun r => (signedValue r.1, r.2)

/-- The poll loop over the next `turns` turns: at each turn of the host it issues GET_RESULT and nothing else, and
returns when the `done` bit is 1; every other agent moves as it does in any step (43 R230, R231, 70 R303). The host's
own list of commands waits. `none` where the turns run out or the machine stops. -/
def pollUntilDone (turns : Nat) (s : State) : Option (BitVec 24 × State) :=
  match turns with
  | 0 => none
  | n + 1 =>
    if s.agenda.head? = some .host then
      match call .getResult { s with agenda := s.agenda.tail } with
      | some (v, t) => if v.getLsbD 16 then some (v, t) else pollUntilDone n t
      | none => none
    else
      match step s with
      | .next t => pollUntilDone n t
      | .fault _ => none
      | .refused _ => none

/-- A blocking call: issue, then poll as long as the agenda has turns; a refused issue has no defined result
(43 R230, R231). -/
def blockingCall (issue : Instr) (s : State) : Option (BitVec 24 × State) :=
  match call issue s with
  | some (_, t) => pollUntilDone t.agenda.length t
  | none => none

/-- `endTransmission(sendStop)`: the status code of the last poll (43 R230). -/
def endTransmission (stop : Bool) (s : State) : Option (BitVec 4 × State) :=
  (blockingCall (.endTx stop) s).map fun r => (r.1.extractLsb' 8 4, r.2)

/-- `endTransmission()`: as with `sendStop = 1` (30 R108). -/
def endTransmissionAndStop (s : State) : Option (BitVec 4 × State) := endTransmission true s

/-- `requestFrom(address, quantity, sendStop)`: `rx_len` of the last poll (43 R231). -/
def requestFrom (addr : BusAddr) (quantity : Byte) (stop : Bool) (s : State) : Option (Byte × State) :=
  (blockingCall (.reqFrom addr stop quantity) s).map fun r => (r.1.extractLsb' 0 8, r.2)

/-- `requestFrom(address, quantity)`: as with `sendStop = 1` (30 R108; the spec's own decision D53, log 38). -/
def requestFromAndStop (addr : BusAddr) (quantity : Byte) (s : State) : Option (Byte × State) :=
  requestFrom addr quantity true s

end Sys2Proof.Machine
end

