-- ==== Sys2Proof/Safety.lean ====
section
/-! DEFINITION. What a legal state and a safe run are: the invariants of 10_state.md R38, the model's invariants of
the buffers and the action port, and the run that meets no refusal (00_scope.md R7). -/

namespace Sys2Proof.Machine

/-- The invariants of 10 R38, item by item. -/
structure State.Inv (s : State) : Prop where
  /-- item 1: `txn = Idle` exactly when `phase = Idle` -/
  txn_idle_iff : s.txn = .idle ↔ s.phase = .idle
  /-- item 1 -/
  txn_transmitting : s.txn = .transmitting →
    s.phase = .startPending ∨ s.phase = .addressPhase ∨ s.phase = .dataPhase .write ∨ s.phase = .stopPending
  /-- item 1 -/
  txn_requesting : s.txn = .requesting →
    s.phase = .startPending ∨ s.phase = .addressPhase ∨ s.phase = .dataPhase .read ∨ s.phase = .stopPending
  /-- item 1 -/
  txn_slave_iff : s.txn = .slaveAddressed ↔
    (s.phase = .slaveAddressed .receive ∨ s.phase = .slaveAddressed .transmit)
  /-- item 2 -/
  tx_bounds : s.txCur ≤ s.txLen ∧ s.txLen ≤ s.cfg.txCapacity
  /-- item 3 -/
  rx_bounds : s.rxCur ≤ s.rxLen ∧ s.rxLen ≤ s.cfg.rxCapacity
  /-- item 4 -/
  off : s.mode = .off →
    s.phase = .idle ∧ s.cbActive = .noCallback ∧ s.busHeld = false ∧ s.transmitting = false
  /-- item 5 -/
  master : s.mode = .master →
    s.cbActive = .noCallback ∧ s.phase ≠ .slaveAddressed .receive ∧ s.phase ≠ .slaveAddressed .transmit
  /-- item 6 -/
  slave : s.mode = .slave →
    (s.phase = .idle ∨ s.phase = .slaveAddressed .receive ∨ s.phase = .slaveAddressed .transmit) ∧
      s.transmitting = false ∧ s.busHeld = false
  /-- item 7 -/
  in_request : s.cbActive = .request → s.phase = .slaveAddressed .transmit
  /-- item 7 -/
  in_receive : s.cbActive = .receive → s.phase = .idle ∧ s.mode = .slave
  /-- item 8 -/
  staging : s.transmitting = true → s.mode = .master ∧ s.phase = .idle ∧ 1 ≤ s.txLen
  /-- item 9 -/
  address_staged : s.phase = .startPending ∨ s.phase = .addressPhase ∨ s.phase = .dataPhase .write ∨
    s.phase = .dataPhase .read → 1 ≤ s.txLen
  /-- item 10 -/
  held : s.busHeld = true → s.mode = .master ∧ s.phase = .idle
  /-- item 11 -/
  finished : s.done = true → s.mode = .master ∧ s.phase = .idle

/-- Both buffers are in canonical form and list no index outside the buffer (20 R60, R71). -/
structure State.BuffersWf (s : State) : Prop where
  tx_wf    : Memory.wf s.tx = true
  rx_wf    : Memory.wf s.rx = true
  tx_below : Memory.below s.cfg.txCapacity s.tx = true
  rx_below : Memory.below s.cfg.rxCapacity s.rx = true

/-- While the unit is begun, every byte below a length was written: no unspecified byte can be read (10 R42,
20 R71, R80). -/
structure State.BuffersWritten (s : State) : Prop where
  tx_written : s.mode ≠ .off → ∀ i, i < s.txLen → (Memory.read? s.tx i).isSome = true
  rx_written : s.mode ≠ .off → ∀ i, i < s.rxLen → (Memory.read? s.rx i).isSome = true

/-- The count of bytes still to be clocked in fits its operand, and is at least 1 while a byte is awaited
(10 R31, 20 R81 item 2, 41 R160). -/
structure State.CountsBytes (s : State) : Prop where
  fits    : s.rxRemaining ≤ 255
  awaited : s.phase = .dataPhase .read → 1 ≤ s.rxRemaining

/-- Every action in the trace and at the action port is well formed, and both divider registers hold DIV_BITS bits
(30 R94, 10 R35). -/
structure State.ActionsWf (s : State) : Prop where
  out_wf     : ∀ a ∈ s.out, a.wf s.cfg = true
  port_wf    : ∀ a ∈ s.actionPort, a.wf s.cfg = true
  setting_wf : s.clockSetting.toNat < 2 ^ s.cfg.divBits
  divider_wf : s.busUnit.divider.toNat < 2 ^ s.cfg.divBits

/-- A response that is no refusal. -/
def isDefined : Response → Bool
  | .value _ => true
  | .refused _ => false

/-- A run that has met no refusal: a claim about a program that meets one is a claim about nothing (00 R7,
70_reset_and_hazards.md section 2; log 1). -/
def State.unrefused (s : State) : Bool := s.responses.all isDefined

/-! ### Runs without end (41 R184 item 5, 60 R285) -/

/-- What the outside may supply between two steps: words at the ends of the ports, turns at the end of the agenda
(log 2). -/
def Supplied (s t : State) : Prop :=
  ∃ commands events turns, t = { s with
    commands := s.commands ++ commands, events := s.events ++ events, agenda := s.agenda ++ turns }

/-- A run without end: `r n` is the state that the `n`-th step starts from. -/
def Run (r : Nat → State) : Prop := ∀ n, ∃ t, step (r n) = .next t ∧ Supplied t (r (n + 1))

/-- A master transaction is in flight: EV_TIMEOUT is enabled (41 R167, 60 R285). -/
def State.inFlight (s : State) : Prop := s.mode = .master ∧ s.phase.masterInFlight = true

/-- Weak fairness of the wait bound: it does not wait for ever while a transaction stays in flight (41 R184 item 5). -/
def WaitBoundFair (r : Nat → State) : Prop :=
  ∀ n, (∀ m, n ≤ m → (r m).inFlight) → ∃ m, n ≤ m ∧ (r m).agenda.head? = some .waitBound

/-- Every master transaction of the run ends: it reaches `done = 1` and Idle (41 R184 item 5). -/
def TransactionsEnd (r : Nat → State) : Prop :=
  ∀ n, (r n).inFlight → ∃ m, n ≤ m ∧ (r m).done = true ∧ (r m).phase = .idle

/-! ### Kinds of instruction and of action -/

/-- The actions only a bus master asks for (42 R206 item 4). -/
def masterOnly : Act → Bool
  | .start => true
  | .restart => true
  | .send _ => false
  | .recv _ => true
  | .stop => true
  | .release => true
  | .cbReceive _ => false
  | .cbRequest => false
  | .setDiv _ => false
  | .setSaddr _ => false
  | .enable => false
  | .disable => false

/-- The events (30 R102). -/
def isEvent : Instr → Bool
  | .beginMaster => false
  | .beginSlave _ => false
  | .endUnit => false
  | .setClock _ => false
  | .getRate => false
  | .setPins _ _ => false
  | .beginTx _ => false
  | .write _ => false
  | .endTx _ => false
  | .reqFrom _ _ _ => false
  | .getResult => false
  | .available => false
  | .read => false
  | .peek => false
  | .onReceive _ => false
  | .onRequest _ => false
  | .cbReturn => false
  | .evStart => true
  | .evByte _ _ => true
  | .evArbLost => true
  | .evStop => true
  | .evAddrMatch _ => true
  | .evTimeout => true
  | .start => false
  | .restart => false
  | .send _ => false
  | .recv _ => false
  | .stop => false
  | .release => false
  | .cbReceive _ => false
  | .cbRequest => false
  | .setDiv _ => false
  | .setSaddr _ => false
  | .enable => false
  | .disable => false

/-- The actions (30 R103). -/
def isAction (i : Instr) : Bool := i.toAct?.isSome

/-- The name the gate knows a command by (43 R220). -/
def commandOf? : Instr → Option Command
  | .beginMaster => some .beginMaster
  | .beginSlave _ => some .beginSlave
  | .endUnit => some .endUnit
  | .setClock _ => some .setClock
  | .getRate => some .getRate
  | .setPins _ _ => some .setPins
  | .beginTx _ => some .beginTx
  | .write _ => some .write
  | .endTx _ => some .endTx
  | .reqFrom _ _ _ => some .reqFrom
  | .getResult => some .getResult
  | .available => some .available
  | .read => some .read
  | .peek => some .peek
  | .onReceive _ => some .onReceive
  | .onRequest _ => some .onRequest
  | .cbReturn => some .cbReturn
  | .evStart => none
  | .evByte _ _ => none
  | .evArbLost => none
  | .evStop => none
  | .evAddrMatch _ => none
  | .evTimeout => none
  | .start => none
  | .restart => none
  | .send _ => none
  | .recv _ => none
  | .stop => none
  | .release => none
  | .cbReceive _ => none
  | .cbRequest => none
  | .setDiv _ => none
  | .setSaddr _ => none
  | .enable => none
  | .disable => none

/-- The commands (30 R101). -/
def isCommand (i : Instr) : Bool := (commandOf? i).isSome

end Sys2Proof.Machine
end

