-- ==== Sys2Proof/Certificates/Slice0/Obligations.lean ====
section
/-! DEFINITION. The statements for the provers. Where a result is written `t = { s with … }`, every field of the
state that is not named keeps its value: that is the instruction's frame. `actionPort := t.actionPort` leaves open
the model's own copy of the emitted actions (log 13), about which EmittedActionsReachTheActionPort speaks. -/

namespace Sys2Proof.Machine

/-- `t` is `s` after a forced stop with status `st`: STOP is emitted and awaited, or, where stops are not detected,
the transaction is complete at once (41 R162, R163, R183). -/
def StopsWith (st : Status) (s t : State) : Prop :=
  if s.cfg.stopDetect = true then
    t = { s with status := st, phase := .stopPending, out := s.out ++ [.stop], actionPort := t.actionPort }
  else
    t = { s with
      status := st, phase := .idle, txn := .idle, done := true
      rxCur := if s.txn = .requesting then 0 else s.rxCur
      out := s.out ++ [.stop], actionPort := t.actionPort }

/-- `t` is `s` after a data phase that ended without error: a stop where one was asked for, else the bus stays held
and the transaction is complete (41 R161). -/
def FinishesOk (s t : State) : Prop :=
  if s.sendStop = true then StopsWith .success s t
  else
    t = { s with
      status := .success, busHeld := true, phase := .idle, txn := .idle, done := true
      rxCur := if s.txn = .requesting then 0 else s.rxCur }

/-- `t` is `s` after an issue: START, or RESTART on a held bus, is emitted and EV_START awaited (41 R151). -/
def IssuesMaster (kind : Txn) (s t : State) : Prop :=
  t = { s with
    txn := kind, done := false, status := .success, txCur := 0, busHeld := false, phase := .startPending
    out := s.out ++ [if s.busHeld then .restart else .start]
    responses := s.responses ++ [.value 0#24], actionPort := t.actionPort }

/-- `t` is `s` after the slave handed over its next byte: the staged byte at the cursor, else the fill byte, which
is the configuration's where it fixes one and a free value where it does not (42 R194; log 11). -/
def SendsSlaveByte (s t : State) : Prop :=
  if s.txCur < s.txLen then
    ∃ b, s.txByte? s.txCur = some b ∧
      t = { s with txCur := s.txCur + 1, out := s.out ++ [.send b], actionPort := t.actionPort }
  else
    ∃ b, (∀ f, s.cfg.slaveTxFill = some f → b = f) ∧
      t = { s with out := s.out ++ [.send b], actionPort := t.actionPort, draws := t.draws }

/-- The index of TX an instruction stores to in state `s`, if it stores to one (20 R61): the address byte, a staged
byte, the address byte seen. END scrambles the whole buffer and is spoken of apart. -/
def txStore (i : Instr) (s : State) : Option Nat :=
  match i, s.mode, s.phase with
  | .beginTx _, _, _ => if gate .beginTx s = none ∧ s.transmitting = false then some 0 else none
  | .reqFrom _ _ _, _, _ => if gate .reqFrom s = none then some 0 else none
  | .write _, _, _ =>
    if gate .write s = none ∧ (s.transmitting = true ∨ s.cbActive = .request) ∧ s.txLen < s.cfg.txCapacity then
      some s.txLen
    else none
  | .evAddrMatch d, .slave, .idle =>
    if s.cbActive = .noCallback ∧ addressOf d = s.slaveAddr ∧ readBit d = true then some 0 else none
  | _, _, _ => none

/-- The index of RX an instruction stores to in state `s`, if it stores to one (20 R61): the byte received. -/
def rxStore (i : Instr) (s : State) : Option Nat :=
  match i, s.mode, s.phase with
  | .evByte _ _, .master, .dataPhase .read =>
    if s.cbActive = .noCallback ∧ s.rxLen < s.cfg.rxCapacity then some s.rxLen else none
  | .evByte _ _, .slave, .slaveAddressed .receive =>
    if s.cbActive = .noCallback ∧ s.rxLen < s.cfg.rxCapacity then some s.rxLen else none
  | _, _, _ => none

end Sys2Proof.Machine

open Sys2Proof Sys2Proof.Machine

/-! ### Encoding and fetching -/

/-- Every instruction, at every operand, survives encoding and decoding (30 R91, R93, R94, R101 to R103, R109). -/
def Obligations.DecodeInvertsEncode : Prop := ∀ i : Instr, decode (encode i) = .instr i

/-- Every word has one meaning: what decodes is what the encoder writes for its instruction. -/
def Obligations.EncodeInvertsDecode : Prop := ∀ (p : PortWord) (i : Instr), decode p = .instr i → encode i = p

/-- A word decodes exactly when it selects a row of its port's table of matches and masks (30 R101 to R104). -/
def Obligations.DecoderAcceptsExactlyTableRows : Prop :=
  (∀ w : CmdWord, (∃ i, decode (.cmd w) = .instr i) ↔ selectsRow cmdRows w = true) ∧
  (∀ w : EvtWord, (∃ i, decode (.evt w) = .instr i) ↔ selectsRow evtRows w = true) ∧
  (∀ w : ActWord, (∃ i, decode (.act w) = .instr i) ↔ selectsRow actRows w = true)

/-- Words written out in the spec decode to the instructions it names (30 R110, 95 section 10). -/
def Obligations.SpecWordsDecode : Prop :=
  decode (.cmd 0x130004D0#32) = .instr (.reqFrom 0x50#7 true 4#8) ∧
  decode (.cmd 0x02000042#32) = .instr (.beginSlave 0x42#7) ∧
  decode (.cmd 0x04061A80#32) = .instr (.setClock 400000#24) ∧
  decode (.cmd 0x06001312#32) = .instr (.setPins 0x13#8 0x12#8) ∧
  decode (.evt 0x2137#16) = .instr (.evByte true 0x37#8) ∧
  decode (.evt 0x5084#16) = .instr (.evAddrMatch 0x84#8) ∧
  decode (.act 0x4100#16) = .instr (.recv true) ∧
  decode (.act 0x8003#16) = .instr (.cbReceive 3#8) ∧
  decode (.cmd 0x13010000#32) = .rejected .illegalCommand ∧
  decode (.evt 0x1001#16) = .rejected .illegalEvent

/-- A step takes the turn's word off its port and runs the instruction it decodes to: for the host, for the bus-side
unit and for the wait bound of 00 R5. The unit offers the oldest pending event, or one behind address matches that are
all held; any other turn of it brings nothing (60 R279). That a turn names its agent is the model's (log 2), and so are
the passing of a held match (log 3) and the last clause, the taking of the oldest action off the first-in first-out
action port, which is no agent's step of R5 (log 13). -/
def Obligations.StepRunsTheOfferedWord : Prop :=
  ∀ (s : State) (turns : List Turn),
    (∀ (w : CmdWord) (rest : List CmdWord) (i : Instr),
      s.agenda = .host :: turns → s.commands = w :: rest → decode (.cmd w) = .instr i →
      step s = exec i { s with agenda := turns, commands := rest }) ∧
    (∀ (k : Nat) (w : EvtWord) (i : Instr),
      s.agenda = .busEvent k :: turns → s.events[k]? = some w → decode (.evt w) = .instr i →
      step s =
        if k = 0 ∨ ((∀ v ∈ s.events.take k, heldMatch s v = true) ∧ heldMatch s w = false) then
          exec i { s with agenda := turns, events := s.events.eraseIdx k }
        else .next { s with agenda := turns }) ∧
    (s.agenda = .waitBound :: turns → step s = exec .evTimeout { s with agenda := turns }) ∧
    (∀ (a : Act) (rest : List Act),
      s.agenda = .takeAction :: turns → s.actionPort = a :: rest →
      step s = exec a.toInstr { s with agenda := turns, actionPort := rest })

/-- A command word that selects no row is refused ILLEGAL_ENCODING with no state change; an event word that selects
none is ignored (30 R104). The refusal is a response (log 1); which event the unit offers is that of
StepRunsTheOfferedWord (60 R279; log 3). -/
def Obligations.UndecodableWordsChangeNothing : Prop :=
  ∀ (s : State) (turns : List Turn),
    (∀ (w : CmdWord) (rest : List CmdWord),
      s.agenda = .host :: turns → s.commands = w :: rest → selectsRow cmdRows w = false →
      step s = .next { s with
        agenda := turns, commands := rest, responses := s.responses ++ [.refused .illegalEncoding] }) ∧
    (∀ (k : Nat) (w : EvtWord),
      s.agenda = .busEvent k :: turns → s.events[k]? = some w → selectsRow evtRows w = false →
      (k = 0 ∨ ((∀ v ∈ s.events.take k, heldMatch s v = true) ∧ heldMatch s w = false)) →
      step s = .next { s with agenda := turns, events := s.events.eraseIdx k })

/-! ### Configuration and reset -/

/-- Power-on refuses exactly the ill-formed configurations, and the default configuration is well formed whatever
its OPEN parameters are (00 R4; log 5, log 6). Beside the constraints of R4 the model checks that the sentinel is no
byte value (30 R100; log 24). -/
def Obligations.PowerOnRefusesIllFormedConfigurations : Prop :=
  (∀ c : Config, State.powerOn c =
    if c.wf = true then .next (State.afterPowerOn c) else .refused .illFormedConfiguration) ∧
  State.powerOn Config.ofSpec = .next State.reset

/-- The power-on values of 10 R42 and 70 R300, for every configuration. -/
def Obligations.PowerOnLeavesTheSpecifiedValues : Prop :=
  ∀ c : Config,
    let s := State.afterPowerOn c
    s.mode = .off ∧ s.phase = .idle ∧ s.txn = .idle ∧ s.transmitting = false ∧ s.busHeld = false ∧
    s.done = false ∧ s.status = .success ∧ s.txLen = 0 ∧ s.txCur = 0 ∧ s.rxLen = 0 ∧ s.rxCur = 0 ∧
    s.rxRemaining = 0 ∧ s.cbReceive = none ∧ s.cbRequest = none ∧ s.cbActive = .noCallback ∧ s.out = []

/-- Every invariant of the model holds after power-on with a well-formed configuration: those of 10 R38, and the
model's own, the strictly rising lists of the buffers (log 8), the actions at the action port (log 13) and the
divider register of the bus-side unit (log 14). -/
def Obligations.PowerOnMeetsEveryInvariant : Prop :=
  ∀ c : Config, c.wf = true →
    (State.afterPowerOn c).Inv ∧ (State.afterPowerOn c).BuffersWf ∧ (State.afterPowerOn c).BuffersWritten ∧
    (State.afterPowerOn c).CountsBytes ∧ (State.afterPowerOn c).ActionsWf

/-! ### The clock divider resolver -/

/-- `nearest_clock` answers a supported clock, none is nearer, and the higher wins a tie; a supported clock is
its own answer (40 R131). -/
def Obligations.NearestClockIsNearestAndHighest : Prop :=
  ∀ (c : Config) (hz : Nat), c.dividerTable ≠ [] →
    let keys := c.dividerTable.map DividerRow.busClockHz
    nearestClock c hz ∈ keys ∧
    (hz ∈ keys → nearestClock c hz = hz) ∧
    (∀ k ∈ keys, ((nearestClock c hz : Int) - hz).natAbs ≤ ((k : Int) - hz).natAbs) ∧
    (∀ k ∈ keys, ((k : Int) - hz).natAbs = ((nearestClock c hz : Int) - hz).natAbs → k ≤ nearestClock c hz)

/-- `resolve` reads the row of the nearest clock: some row of the table has that clock and the answer is its setting
for the class (40 R132). -/
def Obligations.ResolveReadsTheNearestRow : Prop :=
  ∀ (c : Config) (k hz : Nat), c.wf = true → k < c.rateClasses.length →
    ∃ r ∈ c.dividerTable, r.busClockHz = nearestClock c hz ∧ r.settings[k]? = some (resolve c k hz)

/-- `classify` inverts `resolve`, at every clock, supported or not (40 R137). -/
def Obligations.ClassifyInvertsResolve : Prop :=
  ∀ (c : Config) (k hz : Nat), c.wf = true → k < c.rateClasses.length → classify c (resolve c k hz) hz = k

/-- A setting that no class of the row has is classified as the class named Fast (40 R133). -/
def Obligations.ClassifyFallsBackToFast : Prop :=
  ∀ (c : Config) (v : Byte) (hz : Nat), c.wf = true → (∀ k < c.rateClasses.length, resolve c k hz ≠ v) →
    ∃ r, c.rateClasses[classify c v hz]? = some r ∧ r.name = .fast

/-- `rate_class_of` is the floor: the fastest class not faster than the frequency, the slowest where every class is
faster (40 R134). -/
def Obligations.RateClassIsTheFloor : Prop :=
  ∀ (c : Config) (f : Nat), c.wf = true →
    rateClassOf c f < c.rateClasses.length ∧
    (∀ k r, c.rateClasses[k]? = some r → r.nominalHz ≤ f →
      k ≤ rateClassOf c f ∧ ∃ q, c.rateClasses[rateClassOf c f]? = some q ∧ q.nominalHz ≤ f) ∧
    ((∀ r ∈ c.rateClasses, f < r.nominalHz) → rateClassOf c f = 0)

/-! ### The buffer primitives -/

/-- `stageBytes` keeps the first bytes that fit, in order, and touches nothing else (20 R63, R64). -/
def Obligations.StageBytesKeepsThePrefixThatFits : Prop :=
  ∀ (s : State) (bs : List Byte), s.txLen ≤ s.cfg.txCapacity →
    let n := min bs.length (s.cfg.txCapacity - s.txLen)
    (s.stageBytes bs).2 = n ∧
    (s.stageBytes bs).1 = { s with tx := (s.stageBytes bs).1.tx, txLen := s.txLen + n } ∧
    (∀ k, k < n → Memory.read? (s.stageBytes bs).1.tx (s.txLen + k) = bs[k]?) ∧
    (∀ a, ¬(s.txLen ≤ a ∧ a < s.txLen + n) → Memory.read? (s.stageBytes bs).1.tx a = Memory.read? s.tx a)

/-! ### Commands -/

/-- BEGIN_MASTER in Off initialises the unit and emits ENABLE and SET_DIV; `send_stop` is left open (44 R250). Begun
already, it is refused ALREADY_BEGUN (log 1). -/
def Obligations.BeginMasterActivatesTheUnit : Prop :=
  ∀ s : State,
    (s.mode = .off → ∃ t, exec .beginMaster s = .next t ∧
      t = { s with
        mode := .master, phase := .idle, txn := .idle, transmitting := false, sendStop := t.sendStop
        busHeld := false, done := false, status := .success, txLen := 0, txCur := 0, rxLen := 0, rxCur := 0
        rxRemaining := 0, cbActive := .noCallback, clockSetting := resolve s.cfg 0 s.cfg.busClockHz
        out := s.out ++ [.enable, .setDiv (resolve s.cfg 0 s.cfg.busClockHz)]
        responses := s.responses ++ [.value 0#24], actionPort := t.actionPort, draws := t.draws }) ∧
    (s.mode ≠ .off → exec .beginMaster s =
      .next { s with responses := s.responses ++ [.refused .alreadyBegun] })

/-- BEGIN_SLAVE in Off does what BEGIN_MASTER does, takes the slave address and emits SET_SADDR (44 R251); it is
refused NO_STOP_DETECT where stops are not detected and ALREADY_BEGUN where begun (log 1). -/
def Obligations.BeginSlaveActivatesTheUnit : Prop :=
  ∀ (s : State) (a : BusAddr),
    (s.mode = .off → s.cfg.stopDetect = true → ∃ t, exec (.beginSlave a) s = .next t ∧
      t = { s with
        mode := .slave, slaveAddr := a, phase := .idle, txn := .idle, transmitting := false
        sendStop := t.sendStop
        busHeld := false, done := false, status := .success, txLen := 0, txCur := 0, rxLen := 0, rxCur := 0
        rxRemaining := 0, cbActive := .noCallback, clockSetting := resolve s.cfg 0 s.cfg.busClockHz
        out := s.out ++ [.enable, .setDiv (resolve s.cfg 0 s.cfg.busClockHz), .setSaddr a]
        responses := s.responses ++ [.value 0#24], actionPort := t.actionPort, draws := t.draws }) ∧
    (s.mode = .off → s.cfg.stopDetect = false → exec (.beginSlave a) s =
      .next { s with responses := s.responses ++ [.refused .noStopDetect] }) ∧
    (s.mode ≠ .off → exec (.beginSlave a) s =
      .next { s with responses := s.responses ++ [.refused .alreadyBegun] })

/-- END gives up a held bus, deactivates the unit and leaves the buffers, lengths and cursors open within their
bounds (44 R252); in Off it has no effect. That the open values are free values of Config is log 8 to log 10. -/
def Obligations.EndDeactivatesAndLeavesBuffersOpen : Prop :=
  ∀ s : State,
    (s.mode = .off → exec .endUnit s = .next { s with responses := s.responses ++ [.value 0#24] }) ∧
    (s.mode ≠ .off → s.phase = .idle → s.cbActive = .noCallback → ∃ t, exec .endUnit s = .next t ∧
      t.txCur ≤ t.txLen ∧ t.txLen ≤ s.cfg.txCapacity ∧ t.rxCur ≤ t.rxLen ∧ t.rxLen ≤ s.cfg.rxCapacity ∧
      t = { s with
        mode := .off, transmitting := false, busHeld := false, done := false
        tx := t.tx, txLen := t.txLen, txCur := t.txCur, rx := t.rx, rxLen := t.rxLen, rxCur := t.rxCur
        out := s.out ++ (if s.busHeld then [.release, .disable] else [.disable])
        responses := s.responses ++ [.value 0#24], actionPort := t.actionPort
        draws := t.draws, bufEpoch := t.bufEpoch })

/-- SET_CLOCK loads the divider of the frequency's class and emits it (40 R135); GET_RATE answers the class of the
divider register and changes nothing (40 R136). -/
def Obligations.ClockCommandsLoadAndReadTheDivider : Prop :=
  ∀ (s : State) (f : BitVec 24), s.mode ≠ .off →
    (s.phase = .idle → s.cbActive = .noCallback → ∃ t, exec (.setClock f) s = .next t ∧
      t = { s with
        clockSetting := resolve s.cfg (rateClassOf s.cfg f.toNat) s.cfg.busClockHz
        out := s.out ++ [.setDiv (resolve s.cfg (rateClassOf s.cfg f.toNat) s.cfg.busClockHz)]
        responses := s.responses ++ [.value 0#24], actionPort := t.actionPort }) ∧
    exec .getRate s = .next { s with
      responses := s.responses ++ [.value (BitVec.ofNat 24 (classify s.cfg s.clockSetting s.cfg.busClockHz))] }

/-- SET_PINS stores the two designators, in Off or when idle outside a handler (44 R253); ON_RECEIVE and ON_REQUEST
replace the registration in every state (44 R254, R255). When SET_PINS is allowed is the spec's own decision D48. -/
def Obligations.PinsAndHandlersAreStored : Prop :=
  ∀ (s : State) (scl sda : Byte) (h : Handle),
    ((s.mode = .off ∨ (s.phase = .idle ∧ s.cbActive = .noCallback)) → exec (.setPins scl sda) s =
      .next { s with pinScl := scl, pinSda := sda, responses := s.responses ++ [.value 0#24] }) ∧
    exec (.onReceive h) s =
      .next { s with cbReceive := some h, responses := s.responses ++ [.value 0#24] } ∧
    exec (.onRequest h) s =
      .next { s with cbRequest := some h, responses := s.responses ++ [.value 0#24] }

/-- BEGIN_TX stages the address byte and opens staging (43 R221); with staging open it changes nothing
(43 R222, the spec's own reading D21; log 27). -/
def Obligations.BeginTxStagesTheAddressOnce : Prop :=
  ∀ (s : State) (a : BusAddr), s.mode = .master → s.phase = .idle → s.cbActive = .noCallback →
    (s.transmitting = false → ∃ t, exec (.beginTx a) s = .next t ∧
      Memory.read? t.tx 0 = some (a ++ 0#1) ∧ (∀ k, k ≠ 0 → Memory.read? t.tx k = Memory.read? s.tx k) ∧
      t = { s with
        tx := t.tx, txLen := 1, txCur := 0, transmitting := true, responses := s.responses ++ [.value 0#24] }) ∧
    (s.transmitting = true →
      exec (.beginTx a) s = .next { s with responses := s.responses ++ [.value 0#24] })

/-- WRITE stores the byte at `tx_len` while staging or in the request handler and answers 1; it answers 0 and
changes nothing where the buffer is full or nothing is being staged (43 R223). -/
def Obligations.WriteStagesOrAnswersZero : Prop :=
  ∀ (s : State) (d : Byte), s.mode ≠ .off →
    ((s.transmitting = true ∨ s.cbActive = .request) ∧ s.txLen < s.cfg.txCapacity →
      ∃ t, exec (.write d) s = .next t ∧ Memory.read? t.tx s.txLen = some d ∧
        (∀ k, k ≠ s.txLen → Memory.read? t.tx k = Memory.read? s.tx k) ∧
        t = { s with tx := t.tx, txLen := s.txLen + 1, responses := s.responses ++ [.value 1#24] }) ∧
    (¬((s.transmitting = true ∨ s.cbActive = .request) ∧ s.txLen < s.cfg.txCapacity) →
      exec (.write d) s = .next { s with responses := s.responses ++ [.value 0#24] })

/-- END_TX latches the stop operand, closes staging and issues the write (43 R224, 41 R151); without staging it is
refused NOT_TRANSMITTING (log 1). -/
def Obligations.EndTxIssuesTheWrite : Prop :=
  ∀ (s : State) (stop : Bool), s.mode = .master → s.phase = .idle → s.cbActive = .noCallback →
    (s.transmitting = true → ∃ t, exec (.endTx stop) s = .next t ∧
      IssuesMaster .transmitting { s with sendStop := stop, transmitting := false } t) ∧
    (s.transmitting = false → exec (.endTx stop) s =
      .next { s with responses := s.responses ++ [.refused .notTransmitting] })

/-- REQ_FROM stages the read address, clears RX, latches its operands and issues the read (43 R225, 41 R151); with
staging open it is refused STAGING_OPEN (log 1). -/
def Obligations.ReqFromIssuesTheRead : Prop :=
  ∀ (s : State) (a : BusAddr) (stop : Bool) (q : Byte),
    s.mode = .master → s.phase = .idle → s.cbActive = .noCallback →
    (s.transmitting = false → ∃ t, exec (.reqFrom a stop q) s = .next t ∧
      Memory.read? t.tx 0 = some (a ++ 1#1) ∧ (∀ k, k ≠ 0 → Memory.read? t.tx k = Memory.read? s.tx k) ∧
      IssuesMaster .requesting
        { s with tx := t.tx, txLen := 1, rxLen := 0, rxCur := 0, rxRemaining := q.toNat, sendStop := stop } t) ∧
    (s.transmitting = true → exec (.reqFrom a stop q) s =
      .next { s with responses := s.responses ++ [.refused .stagingOpen] })

/-- GET_RESULT answers `done` in bit 16, the status code in bits 11:8, `rx_len` in bits 7:0, zero elsewhere, and
changes nothing (43 R226, 30 R92). -/
def Obligations.GetResultPacksTheOutcome : Prop :=
  ∀ s : State, s.mode ≠ .off → s.cbActive = .noCallback → s.rxLen ≤ 255 →
    ∃ v : BitVec 24,
      exec .getResult s = .next { s with responses := s.responses ++ [.value v] } ∧
      v.toNat = (if s.done = true then 65536 else 0) + (statusCode s.cfg.statusCodes s.status).toNat * 256 + s.rxLen

/-- AVAILABLE answers the unread count; PEEK answers the next byte or NO_DATA and changes nothing; READ answers the
same and advances the cursor only where there was a byte (43 R227 to R229, 20 R67 to R69). -/
def Obligations.RxReadersAnswerTheNextByte : Prop :=
  ∀ s : State, s.mode ≠ .off →
    (s.cbActive ≠ .noCallback ∨ s.phase = .idle ∨
      (s.txn ≠ .requesting ∧ s.phase ≠ .slaveAddressed .receive)) →
    exec .available s =
      .next { s with responses := s.responses ++ [.value (BitVec.ofNat 24 (s.rxLen - s.rxCur))] } ∧
    (s.rxLen ≤ s.rxCur →
      exec .read s = .next { s with responses := s.responses ++ [.value s.cfg.noData] } ∧
      exec .peek s = .next { s with responses := s.responses ++ [.value s.cfg.noData] }) ∧
    (s.rxCur < s.rxLen → s.rxLen ≤ s.cfg.rxCapacity → ∃ b : Byte, s.rxByte? s.rxCur = some b ∧
      exec .read s = .next { s with
        rxCur := s.rxCur + 1, responses := s.responses ++ [.value (0#16 ++ b)] } ∧
      exec .peek s = .next { s with responses := s.responses ++ [.value (0#16 ++ b)] })

/-- CB_RETURN ends the handler: after a request handler the next staged byte, or the fill byte, goes out, after a
receive handler nothing does (44 R256, 42 R194). Outside a handler it is refused NO_CALLBACK (log 1). -/
def Obligations.CbReturnEndsTheHandler : Prop :=
  ∀ s : State, s.mode ≠ .off →
    (s.cbActive = .receive → exec .cbReturn s =
      .next { s with cbActive := .noCallback, responses := s.responses ++ [.value 0#24] }) ∧
    (s.cbActive = .request → s.txLen ≤ s.cfg.txCapacity → ∃ t, exec .cbReturn s = .next t ∧
      SendsSlaveByte
        { s with cbActive := .noCallback, responses := s.responses ++ [.value 0#24] } t) ∧
    (s.cbActive = .noCallback → exec .cbReturn s =
      .next { s with responses := s.responses ++ [.refused .noCallback] })

/-- A command the gate refuses changes nothing: its response carries the reason (43 R233 item 4, 00 R7; log 1). -/
def Obligations.RefusedCommandsChangeNothing : Prop :=
  ∀ (i : Instr) (c : Command) (r : Reason) (s : State), commandOf? i = some c → gate c s = some r →
    exec i s = .next { s with responses := s.responses ++ [.refused r] }

/-- The acceptance gate, column by column of its matrix, in every state that meets the invariants (43 R220). -/
def Obligations.GateFollowsTheMatrix : Prop :=
  ∀ s : State, s.Inv →
    (s.mode = .off → ∀ c, gate c s = match c with
      | .beginMaster | .beginSlave | .endUnit | .setPins | .onReceive | .onRequest => none
      | _ => some .notBegun) ∧
    (s.mode = .master → s.phase = .idle → ∀ c, gate c s = match c with
      | .beginMaster | .beginSlave => some .alreadyBegun
      | .endTx => if s.transmitting = true then none else some .notTransmitting
      | .reqFrom => if s.transmitting = true then some .stagingOpen else none
      | .cbReturn => some .noCallback
      | _ => none) ∧
    (s.mode = .master → s.phase ≠ .idle → ∀ c, gate c s = match c with
      | .beginMaster | .beginSlave => some .alreadyBegun
      | .getRate | .write | .getResult | .onReceive | .onRequest => none
      | .available | .read | .peek => if s.txn = .requesting then some .busy else none
      | .cbReturn => some .noCallback
      | _ => some .busy) ∧
    (s.mode = .slave → s.phase = .idle → s.cbActive = .noCallback → ∀ c, gate c s = match c with
      | .beginMaster | .beginSlave => some .alreadyBegun
      | .beginTx | .endTx | .reqFrom => some .wrongMode
      | .cbReturn => some .noCallback
      | _ => none) ∧
    (s.mode = .slave → s.phase ≠ .idle → s.cbActive = .noCallback → ∀ c, gate c s = match c with
      | .beginMaster | .beginSlave => some .alreadyBegun
      | .beginTx | .endTx | .reqFrom => some .wrongMode
      | .endUnit | .setClock | .setPins => some .busy
      | .available | .read | .peek => if s.phase = .slaveAddressed .receive then some .busy else none
      | .cbReturn => some .noCallback
      | _ => none) ∧
    (s.cbActive ≠ .noCallback → ∀ c, gate c s = match c with
      | .beginMaster | .beginSlave => some .alreadyBegun
      | .getRate | .write | .available | .read | .peek | .onReceive | .onRequest | .cbReturn => none
      | _ => some .inCallback)

/-! ### Events in master mode -/

/-- EV_START in StartPending sends the address byte (41 R152). -/
def Obligations.StartDetectedSendsTheAddressByte : Prop :=
  ∀ s : State, s.cfg.wf = true → s.mode = .master → s.cbActive = .noCallback → s.phase = .startPending →
    ∃ b t, s.txByte? 0 = some b ∧ exec .evStart s = .next t ∧
      t = { s with
        txCur := 1, phase := .addressPhase, out := s.out ++ [.send b], actionPort := t.actionPort }

/-- A NAK of the address byte or of a data byte is recorded and a stop is forced, whatever `send_stop` says
(41 R153, R158). -/
def Obligations.NakIsRecordedAndForcesAStop : Prop :=
  ∀ (s : State) (d : Byte), s.mode = .master → s.cbActive = .noCallback →
    (s.phase = .addressPhase → ∃ t, exec (.evByte false d) s = .next t ∧ StopsWith .addressNak s t) ∧
    (s.phase = .dataPhase .write → ∃ t, exec (.evByte false d) s = .next t ∧ StopsWith .dataNak s t)

/-- An acknowledged byte of a write, the address byte or a data byte, is followed by the next staged byte, or by the
end of the data phase when there is none (41 R154, R156, R157, R161). -/
def Obligations.AckedWriteSendsTheNextByteOrFinishes : Prop :=
  ∀ (s : State) (d : Byte), s.mode = .master → s.cbActive = .noCallback →
    (s.phase = .addressPhase ∧ s.txn = .transmitting ∨ s.phase = .dataPhase .write) →
    (s.txCur < s.txLen → s.txLen ≤ s.cfg.txCapacity → ∃ b t, s.txByte? s.txCur = some b ∧
      exec (.evByte true d) s = .next t ∧
      t = { s with
        txCur := s.txCur + 1, phase := .dataPhase .write, out := s.out ++ [.send b]
        actionPort := t.actionPort }) ∧
    (s.txLen ≤ s.txCur → ∃ t, exec (.evByte true d) s = .next t ∧
      FinishesOk { s with phase := .dataPhase .write } t)

/-- An acknowledged read address asks for the first byte, with NAK only for the last, or finishes when none is
wanted (41 R155, R159). -/
def Obligations.AckedReadAddressAsksForTheFirstByte : Prop :=
  ∀ (s : State) (d : Byte), s.mode = .master → s.cbActive = .noCallback → s.phase = .addressPhase →
    s.txn = .requesting →
    (s.rxRemaining = 0 → ∃ t, exec (.evByte true d) s = .next t ∧
      FinishesOk { s with phase := .dataPhase .read } t) ∧
    (1 ≤ s.rxRemaining → ∃ t, exec (.evByte true d) s = .next t ∧
      t = { s with
        phase := .dataPhase .read, out := s.out ++ [.recv (decide (2 ≤ s.rxRemaining))]
        actionPort := t.actionPort })

/-- A byte that arrives in a master read is stored at `rx_len`, or dropped when RX is full; then the next byte is
asked for, with NAK only for the last, or the read finishes (41 R160, R159, 20 R66). -/
def Obligations.ArrivedByteIsStoredAndTheNextAskedFor : Prop :=
  ∀ (s : State) (ack : Bool) (d : Byte), s.mode = .master → s.cbActive = .noCallback →
    s.phase = .dataPhase .read → 1 ≤ s.rxRemaining →
    ∃ kept t, exec (.evByte ack d) s = .next t ∧
      kept = { s with
        rx := kept.rx, rxLen := if s.rxLen < s.cfg.rxCapacity then s.rxLen + 1 else s.rxLen
        rxRemaining := s.rxRemaining - 1 } ∧
      (∀ k, Memory.read? kept.rx k =
        if k = s.rxLen ∧ s.rxLen < s.cfg.rxCapacity then some d else Memory.read? s.rx k) ∧
      (s.rxRemaining = 1 → FinishesOk kept t) ∧
      (2 ≤ s.rxRemaining → t = { kept with
        out := s.out ++ [.recv (decide (3 ≤ s.rxRemaining))], actionPort := t.actionPort })

/-- EV_STOP in StopPending completes the transaction; the status stays what the stop's rule wrote (41 R164, R163). -/
def Obligations.StopDetectedCompletesTheTransaction : Prop :=
  ∀ s : State, s.mode = .master → s.cbActive = .noCallback → s.phase = .stopPending →
    exec .evStop s = .next { s with
      phase := .idle, txn := .idle, done := true
      rxCur := if s.txn = .requesting then 0 else s.rxCur }

/-- Arbitration loss and the wait bound, in each of the five master phases in flight: the status is recorded, RELEASE
is emitted and the transaction is complete; a timed-out request reports no byte (41 R165, R166, R167). -/
def Obligations.AbortReleasesTheBusAndCompletes : Prop :=
  ∀ s : State, s.mode = .master →
    (s.phase = .startPending ∨ s.phase = .addressPhase ∨ s.phase = .dataPhase .write ∨
      s.phase = .dataPhase .read ∨ s.phase = .stopPending) →
    (s.cbActive = .noCallback → ∃ t, exec .evArbLost s = .next t ∧
      t = { s with
        status := .arbitrationLost, phase := .idle, txn := .idle, done := true
        rxCur := if s.txn = .requesting then 0 else s.rxCur
        out := s.out ++ [.release], actionPort := t.actionPort }) ∧
    (∃ t, exec .evTimeout s = .next t ∧
      t = { s with
        status := .timeout, phase := .idle, txn := .idle, done := true
        rxLen := if s.txn = .requesting then 0 else s.rxLen
        rxCur := if s.txn = .requesting then 0 else s.rxCur
        out := s.out ++ [.release], actionPort := t.actionPort })

/-- The ignored pairs of the tables of 41 R169, R175 and 42 R201: the event is consumed, the state is unchanged. -/
def Obligations.UnlistedEventsAreIgnored : Prop :=
  ∀ (s : State) (ack : Bool) (d : Byte),
    (s.mode = .off → ∀ i, isEvent i = true → exec i s = .next s) ∧
    (s.mode = .master → s.cbActive = .noCallback →
      exec (.evAddrMatch d) s = .next s ∧
      (s.phase = .idle → ∀ i, isEvent i = true → exec i s = .next s) ∧
      (s.phase ≠ .startPending → exec .evStart s = .next s) ∧
      (s.phase ≠ .stopPending → exec .evStop s = .next s) ∧
      (s.phase = .startPending ∨ s.phase = .stopPending → exec (.evByte ack d) s = .next s)) ∧
    (s.mode = .slave → exec .evTimeout s = .next s ∧
      (s.cbActive = .noCallback → exec .evArbLost s = .next s ∧
        (addressOf d ≠ s.slaveAddr → s.phase = .idle → exec (.evAddrMatch d) s = .next s) ∧
        (s.phase = .idle →
          exec .evStart s = .next s ∧ exec .evStop s = .next s ∧ exec (.evByte ack d) s = .next s)))

/-! ### Events in slave mode -/

/-- An address match of an idle slave: a write opens slave receive with RX cleared (42 R191, R192); a read opens
slave transmit with TX holding the address byte, and invokes the request handler or, without one, sends the fill
byte (42 R193, R194). -/
def Obligations.AddressMatchOpensTheSlaveTransaction : Prop :=
  ∀ (s : State) (d : Byte), s.mode = .slave → s.cbActive = .noCallback → s.phase = .idle →
    d.extractLsb' 1 7 = s.slaveAddr →
    (d.getLsbD 0 = false → exec (.evAddrMatch d) s = .next { s with
      txn := .slaveAddressed, phase := .slaveAddressed .receive, rxLen := 0, rxCur := 0 }) ∧
    (d.getLsbD 0 = true → ∃ t, exec (.evAddrMatch d) s = .next t ∧ Memory.read? t.tx 0 = some d ∧
      (∀ k, k ≠ 0 → Memory.read? t.tx k = Memory.read? s.tx k) ∧
      (s.cbRequest ≠ none → t = { s with
        txn := .slaveAddressed, phase := .slaveAddressed .transmit, tx := t.tx, txLen := 1, txCur := 1
        cbActive := .request, out := s.out ++ [.cbRequest], actionPort := t.actionPort }) ∧
      (s.cbRequest = none → SendsSlaveByte { s with
        txn := .slaveAddressed, phase := .slaveAddressed .transmit, tx := t.tx, txLen := 1, txCur := 1 } t))

/-- In slave receive each byte is stored at `rx_len` or dropped when RX is full (42 R195), and a stop or restart
delivers the count once to the registered handler, or to nobody (42 R196). The delivery of a count of 0 is the spec's own
decision (log 28); a count above 255, which no legal state has, is cut to 8 bits by the model (log 17). -/
def Obligations.SlaveReceiveStoresThenDelivers : Prop :=
  ∀ (s : State) (ack : Bool) (d : Byte), s.mode = .slave → s.cbActive = .noCallback →
    s.phase = .slaveAddressed .receive →
    (∃ t, exec (.evByte ack d) s = .next t ∧
      (∀ k, Memory.read? t.rx k =
        if k = s.rxLen ∧ s.rxLen < s.cfg.rxCapacity then some d else Memory.read? s.rx k) ∧
      t = { s with
        rx := t.rx, rxLen := if s.rxLen < s.cfg.rxCapacity then s.rxLen + 1 else s.rxLen }) ∧
    (∀ i, i = .evStop ∨ i = .evStart → ∃ t, exec i s = .next t ∧
      (s.cbReceive = none → t = { s with phase := .idle, txn := .idle }) ∧
      (s.cbReceive ≠ none → t = { s with
        phase := .idle, txn := .idle, cbActive := .receive
        out := s.out ++ [.cbReceive (BitVec.ofNat 8 s.rxLen)], actionPort := t.actionPort }))

/-- In slave transmit an acknowledged byte is followed by the next staged byte or the fill byte (42 R197, R194); a NAK,
a stop or a restart ends the transaction (42 R198, R199). The fill byte is log 11, and both it and the NAK's ending are
the spec's own decisions D32 and D33. -/
def Obligations.SlaveTransmitSendsUntilTheMasterEnds : Prop :=
  ∀ (s : State) (d : Byte), s.mode = .slave → s.cbActive = .noCallback →
    s.phase = .slaveAddressed .transmit →
    (s.txLen ≤ s.cfg.txCapacity → ∃ t, exec (.evByte true d) s = .next t ∧ SendsSlaveByte s t) ∧
    (∀ i, i = .evByte false d ∨ i = .evStop ∨ i = .evStart →
      exec i s = .next { s with phase := .idle, txn := .idle })

/-- While a handler is active, every event but EV_TIMEOUT stays pending and nothing else changes; so does an address
match while already addressed (42 R200, R191, 60 R278). That the event goes back to the head of the pending events
is the model's (log 3). -/
def Obligations.HandlersHoldEveryEvent : Prop :=
  ∀ (s : State) (i : Instr), isEvent i = true → i ≠ .evTimeout → s.mode = .slave →
    (s.cbActive ≠ .noCallback ∨ (s.phase ≠ .idle ∧ ∃ d, i = .evAddrMatch d)) →
    ∃ w, encode i = .evt w ∧ exec i s = .next { s with events := w :: s.events }

/-! ### Actions -/

/-- Each action, taken by its receiver: a bus request becomes the unit's last request, RELEASE abandons it, the
configuration actions load or switch the unit's registers, a callback notification reaches the host; nothing else
changes (41 R177 to R182, 42 R202, R203, 44 R257 to R260). The receiver's registers are the model's (log 13, log 14). -/
def Obligations.ActionsReachTheirReceiver : Prop :=
  ∀ (s : State) (b : Byte) (ack : Bool) (a : BusAddr),
    exec .start s = .next { s with busUnit := { s.busUnit with lastRequest := some .start } } ∧
    exec .restart s = .next { s with busUnit := { s.busUnit with lastRequest := some .restart } } ∧
    exec (.send b) s = .next { s with busUnit := { s.busUnit with lastRequest := some (.send b) } } ∧
    exec (.recv ack) s = .next { s with busUnit := { s.busUnit with lastRequest := some (.recv ack) } } ∧
    exec .stop s = .next { s with busUnit := { s.busUnit with lastRequest := some .stop } } ∧
    exec .release s = .next { s with busUnit := { s.busUnit with lastRequest := none } } ∧
    exec (.setDiv b) s = .next { s with busUnit := { s.busUnit with divider := b } } ∧
    exec (.setSaddr a) s = .next { s with busUnit := { s.busUnit with ownAddr := some a } } ∧
    exec .enable s = .next { s with busUnit := { s.busUnit with enabled := true } } ∧
    exec .disable s = .next { s with busUnit := { s.busUnit with enabled := false } } ∧
    exec (.cbReceive b) s = .next { s with notices := s.notices ++ [.cbReceive b] } ∧
    exec .cbRequest s = .next { s with notices := s.notices ++ [.cbRequest] }

/-- Whatever a command or an event emits is appended to the trace and, in the same order, to the action port; nothing
shortens the trace (10 R37, 00 R10; log 13). -/
def Obligations.EmittedActionsReachTheActionPort : Prop :=
  ∀ (i : Instr) (s t : State), exec i s = .next t →
    ∃ as, t.out = s.out ++ as ∧ t.actionPort = s.actionPort ++ as

/-! ### Frames over all instructions -/

/-- Every byte of both buffers keeps what it holds except the one an instruction stores to, which `txStore` and
`rxStore` compute; END, which leaves every byte open, is set apart (20 R61, 44 R252). -/
def Obligations.StoresTouchOneByteOnly : Prop :=
  ∀ (i : Instr) (s t : State), exec i s = .next t → i ≠ .endUnit →
    (∀ k, txStore i s ≠ some k → Memory.read? t.tx k = Memory.read? s.tx k) ∧
    (∀ k, rxStore i s ≠ some k → Memory.read? t.rx k = Memory.read? s.rx k)

/-- Which instructions may change which register, flag or status field (10 R21, R24, R25, R31 to R36, R40). That the
configuration is state no step writes is the model's (log 5), and so is the list of responses, in which a refusal is one
more response (log 1, log 22). -/
def Obligations.RegistersHaveTheirOwnWriters : Prop :=
  ∀ (i : Instr) (s t : State), exec i s = .next t →
    t.cfg = s.cfg ∧
    (t.mode ≠ s.mode → i = .beginMaster ∨ (∃ a, i = .beginSlave a) ∨ i = .endUnit) ∧
    (t.slaveAddr ≠ s.slaveAddr → ∃ a, i = .beginSlave a) ∧
    (t.cbReceive ≠ s.cbReceive → ∃ h, i = .onReceive h) ∧
    (t.cbRequest ≠ s.cbRequest → ∃ h, i = .onRequest h) ∧
    (t.pinScl ≠ s.pinScl ∨ t.pinSda ≠ s.pinSda → ∃ c d, i = .setPins c d) ∧
    (t.clockSetting ≠ s.clockSetting → (∃ f, i = .setClock f) ∨ i = .beginMaster ∨ ∃ a, i = .beginSlave a) ∧
    (t.transmitting ≠ s.transmitting →
      (∃ a, i = .beginTx a) ∨ (∃ b, i = .endTx b) ∨ i = .beginMaster ∨ (∃ a, i = .beginSlave a) ∨ i = .endUnit) ∧
    (t.sendStop ≠ s.sendStop →
      (∃ b, i = .endTx b) ∨ (∃ a b q, i = .reqFrom a b q) ∨ i = .beginMaster ∨ ∃ a, i = .beginSlave a) ∧
    (t.rxRemaining ≠ s.rxRemaining →
      (∃ a b q, i = .reqFrom a b q) ∨ (∃ b d, i = .evByte b d) ∨ i = .beginMaster ∨ ∃ a, i = .beginSlave a) ∧
    (t.cbActive ≠ s.cbActive →
      i = .evStart ∨ i = .evStop ∨ (∃ d, i = .evAddrMatch d) ∨ i = .cbReturn ∨ i = .beginMaster ∨
        ∃ a, i = .beginSlave a) ∧
    (s.done = false → t.done = true →
      (∃ b d, i = .evByte b d) ∨ i = .evStop ∨ i = .evArbLost ∨ i = .evTimeout) ∧
    (s.done = true → t.done = false →
      (∃ b, i = .endTx b) ∨ (∃ a b q, i = .reqFrom a b q) ∨ i = .beginMaster ∨ (∃ a, i = .beginSlave a) ∨
        i = .endUnit) ∧
    (s.busHeld = false → t.busHeld = true → ∃ b d, i = .evByte b d) ∧
    (s.busHeld = true → t.busHeld = false →
      (∃ b, i = .endTx b) ∨ (∃ a b q, i = .reqFrom a b q) ∨ i = .beginMaster ∨ (∃ a, i = .beginSlave a) ∨
        i = .endUnit) ∧
    (t.status ≠ s.status →
      (∃ b, i = .endTx b) ∨ (∃ a b q, i = .reqFrom a b q) ∨ (∃ b d, i = .evByte b d) ∨ i = .evArbLost ∨
        i = .evTimeout ∨ i = .beginMaster ∨ ∃ a, i = .beginSlave a) ∧
    (t.responses ≠ s.responses → isCommand i = true)

/-! ### Invariants every step keeps -/

/-- Every step keeps the eleven invariants of 10 R38. -/
def Obligations.StepKeepsTheSpecInvariants : Prop :=
  ∀ s t : State, s.cfg.wf = true → s.Inv → step s = .next t → t.Inv

/-- Every step keeps both buffers in canonical form, the model's strictly rising lists (log 8), and inside their
capacities (20 R60, R71). -/
def Obligations.StepKeepsTheBuffersCanonical : Prop :=
  ∀ s t : State, s.cfg.wf = true → s.BuffersWf → step s = .next t → t.BuffersWf

/-- Every step keeps the bytes below each length written, so that no unspecified byte is read (10 R42, 20 R80), and the
count of bytes to be clocked in within its operand and above zero while a byte is awaited (10 R31, 20 R81). -/
def Obligations.StepKeepsWhatReadsRelyOn : Prop :=
  ∀ s t : State, step s = .next t →
    (s.BuffersWritten → t.BuffersWritten) ∧ (s.CountsBytes → t.CountsBytes)

/-- Every action ever emitted is well formed for the configuration, and so is the divider setting (30 R94, 10 R35); so
are, in the model, the actions at the action port (log 13) and the bus-side unit's divider register (log 14). -/
def Obligations.StepKeepsActionsWellFormed : Prop :=
  ∀ s t : State, s.cfg.wf = true → s.Inv → s.ActionsWf → step s = .next t → t.ActionsWf

/-- No step from a legal state faults or is refused by the model: the block never crashes (60 R276, R283). The faults
it rules out are the model's (log 12), and the ground is that no rule reads an index out of range (20 R71). -/
def Obligations.LegalStatesNeverStop : Prop :=
  ∀ s : State, s.cfg.wf = true → s.Inv → ∃ t, step s = .next t

/-! ### Laws of the whole machine -/

/-- No START or RESTART is emitted while a transaction is in flight (41 R184 item 4). -/
def Obligations.NoStartWhileInFlight : Prop :=
  ∀ (i : Instr) (s t : State), s.phase ≠ .idle → exec i s = .next t →
    ∃ as, t.out = s.out ++ as ∧ .start ∉ as ∧ .restart ∉ as

/-- In slave mode no master action is emitted (42 R206 item 4). -/
def Obligations.SlaveModeEmitsNoMasterAction : Prop :=
  ∀ (i : Instr) (s t : State), s.Inv → s.mode = .slave → exec i s = .next t →
    ∃ as, t.out = s.out ++ as ∧ as.all (fun a => !masterOnly a) = true

/-- Every error path releases the bus: a step that records a new error emits STOP or RELEASE, leaves the bus unheld,
the mode as it was, and ends the transaction or awaits its stop (60 R276, 41 R184 item 3). -/
def Obligations.ErrorsReleaseTheBus : Prop :=
  ∀ (i : Instr) (s t : State), s.Inv → exec i s = .next t → t.status ≠ s.status → t.status ≠ .success →
    (∃ (as : List Act) (a : Act), t.out = s.out ++ as ∧ as.getLast? = some a ∧ (a = .stop ∨ a = .release)) ∧
    t.busHeld = false ∧ t.mode = s.mode ∧ s.mode = .master ∧
    ((t.phase = .stopPending ∧ t.done = false) ∨ (t.phase = .idle ∧ t.done = true))

/-- The divider setting and the pins steer nothing: an instruction that neither loads nor reads them does the same
whatever they hold (40 R140, 10 R35, R36). -/
def Obligations.DividerAndPinsSteerNothing : Prop :=
  ∀ (i : Instr) (s : State) (v p q : Byte),
    (∀ f, i ≠ .setClock f) → i ≠ .getRate → i ≠ .beginMaster → (∀ a, i ≠ .beginSlave a) →
    (∀ c d, i ≠ .setPins c d) →
    exec i { s with clockSetting := v, pinScl := p, pinSda := q } =
      mapNext (fun t => { t with clockSetting := v, pinScl := p, pinSda := q }) (exec i s)

/-! ### Whole transactions -/

/-- A master write that every byte acknowledges sends exactly the staged bytes, the address byte first, in order,
each once, then the stop that was asked for, and ends in success (41 R184 item 1). `bus_held` is 0 in StartPending in
every legal state (10 R38 item 10), so it ends as 1 exactly where no stop was asked for. -/
def Obligations.MasterWriteSendsExactlyTheStagedBytes : Prop :=
  ∀ (s : State) (acks : List Byte), s.mode = .master → s.cbActive = .noCallback →
    s.phase = .startPending → s.txn = .transmitting → 1 ≤ s.txLen → s.txLen ≤ s.cfg.txCapacity →
    acks.length = s.txLen →
    ∃ (bytes : List Byte) (t : State), bytes.length = s.txLen ∧ (∀ k, k < s.txLen → s.txByte? k = bytes[k]?) ∧
      execAll (.evStart :: acks.map (Instr.evByte true)) s = .next t ∧
      t.out = s.out ++ bytes.map Act.send ++ (if s.sendStop = true then [.stop] else []) ∧
      t.status = .success ∧ t.busHeld = (s.busHeld || !s.sendStop) ∧
      t.phase = (if s.sendStop = true ∧ s.cfg.stopDetect = true then .stopPending else .idle)

/-- A master read of n ≥ 1 bytes asks for exactly n bytes, ACK for all but the last, NAK for the last, keeps in order
those that fit, and ends in success (41 R184 item 2). -/
def Obligations.MasterReadAcknowledgesAllButTheLast : Prop :=
  ∀ (s : State) (first : Byte) (arrivals : List (Bool × Byte)), s.mode = .master → s.cbActive = .noCallback →
    s.phase = .addressPhase → s.txn = .requesting → 1 ≤ s.rxRemaining → s.rxLen ≤ s.cfg.rxCapacity →
    arrivals.length = s.rxRemaining →
    ∃ t, execAll (.evByte true first :: arrivals.map fun p => Instr.evByte p.1 p.2) s = .next t ∧
      t.out = s.out ++ List.replicate (s.rxRemaining - 1) (.recv true) ++ [.recv false] ++
        (if s.sendStop = true then [.stop] else []) ∧
      t.status = .success ∧ t.rxLen = min (s.rxLen + s.rxRemaining) s.cfg.rxCapacity ∧ t.rxRemaining = 0 ∧
      (∀ k, k < s.rxRemaining → s.rxLen + k < s.cfg.rxCapacity →
        Memory.read? t.rx (s.rxLen + k) = arrivals[k]?.map Prod.snd)

/-- A remote write to this slave is delivered in one notification, at its end, with the count of bytes kept; without a
handler there is none, and the bytes kept are the first that arrived, in order (42 R206 item 1). A count above 255,
which no well-formed capacity allows, is cut to 8 bits by the model (log 17). -/
def Obligations.SlaveReceiveDeliversExactlyOnce : Prop :=
  ∀ (s : State) (d : Byte) (arrivals : List (Bool × Byte)) (last : Instr), s.mode = .slave →
    s.cbActive = .noCallback → s.phase = .idle → addressOf d = s.slaveAddr → readBit d = false →
    (last = .evStop ∨ last = .evStart) →
    ∃ t, execAll (.evAddrMatch d :: arrivals.map (fun p => Instr.evByte p.1 p.2) ++ [last]) s = .next t ∧
      t.out = s.out ++ (if s.cbReceive = none then []
        else [.cbReceive (BitVec.ofNat 8 (min arrivals.length s.cfg.rxCapacity))]) ∧
      t.phase = .idle ∧ t.rxCur = 0 ∧ t.rxLen = min arrivals.length s.cfg.rxCapacity ∧
      (∀ k, k < t.rxLen → Memory.read? t.rx k = arrivals[k]?.map Prod.snd)

/-- A slave transmit answers each acknowledge with one SEND: the staged bytes in the order they were staged, then fill
bytes, each the configuration's or a free value (42 R206 item 3; log 11). -/
def Obligations.SlaveTransmitSendsInOrderThenFill : Prop :=
  ∀ (s : State) (acks : List Byte), s.mode = .slave → s.cbActive = .noCallback →
    s.phase = .slaveAddressed .transmit → s.txLen ≤ s.cfg.txCapacity →
    ∃ (t : State) (sent : List Act), execAll (acks.map (Instr.evByte true)) s = .next t ∧ t.out = s.out ++ sent ∧
      sent.length = acks.length ∧ (∀ k, k < acks.length → ∃ b, sent[k]? = some (.send b)) ∧
      (∀ k, k < acks.length → s.txCur + k < s.txLen → sent[k]? = (s.txByte? (s.txCur + k)).map Act.send) ∧
      (∀ k f, k < acks.length → s.txLen ≤ s.txCur + k → s.cfg.slaveTxFill = some f →
        sent[k]? = some (.send f))

/-- After BEGIN_TX, n WRITEs retain min(n, capacity - 1) bytes, in order after the address byte (43 R233 item 1). -/
def Obligations.WritesRetainWhatFits : Prop :=
  ∀ (s : State) (a : BusAddr) (bs : List Byte), s.cfg.wf = true → s.mode = .master → s.phase = .idle →
    s.cbActive = .noCallback → s.transmitting = false →
    ∃ t, execAll (.beginTx a :: writeBytes bs) s = .next t ∧
      t.txLen - 1 = min bs.length (s.cfg.txCapacity - 1) ∧
      Memory.read? t.tx 0 = some (addressByte a false) ∧
      (∀ k, k < min bs.length (s.cfg.txCapacity - 1) → Memory.read? t.tx (k + 1) = bs[k]?)

/-- Whatever events follow a request, it never holds more bytes than were asked for, nor than fit
(43 R233 item 2). -/
def Obligations.RequestNeverExceedsItsQuantity : Prop :=
  ∀ (s t : State) (a : BusAddr) (stop : Bool) (q : Byte) (events : List Instr), s.mode = .master →
    s.phase = .idle → s.cbActive = .noCallback → s.transmitting = false →
    (∀ i ∈ events, isEvent i = true) → execAll (.reqFrom a stop q :: events) s = .next t →
    t.rxLen ≤ q.toNat ∧ t.rxLen ≤ s.cfg.rxCapacity
end

