-- ==== Sys2Proof/Laws/Decode.lean ====
section
/-! SUPPORT. Fields of assembled words (30_encoding.md R91, R93, R94): what `field` and `bitAt` read from a
concatenation. -/

namespace Sys2Proof

theorem field_low {v w : Nat} (a : BitVec v) (b : BitVec w) (lo len : Nat) (h : lo + len ≤ w) :
    field (a ++ b) lo len = field b lo len := BitVec.extractLsb'_append_eq_of_add_le h

theorem field_high {v w : Nat} (a : BitVec v) (b : BitVec w) (lo len : Nat) (h : w ≤ lo) :
    field (a ++ b) lo len = field a (lo - w) len := BitVec.extractLsb'_append_eq_of_le h

@[simp] theorem field_self {n : Nat} (w : BitVec n) : field w 0 n = w := BitVec.extractLsb'_eq_self

@[simp] theorem field_zero {n : Nat} (lo len : Nat) : field (0#n) lo len = 0#len := by
  simp [field, BitVec.extractLsb']

theorem bitAt_low {v w : Nat} (a : BitVec v) (b : BitVec w) (k : Nat) (h : k < w) :
    bitAt (a ++ b) k = bitAt b k := by simp [bitAt, BitVec.getLsbD_append, h]

theorem bitAt_high {v w : Nat} (a : BitVec v) (b : BitVec w) (k : Nat) (h : w ≤ k) :
    bitAt (a ++ b) k = bitAt a (k - w) := by simp [bitAt, BitVec.getLsbD_append, Nat.not_lt.mpr h]

@[simp] theorem bitAt_bit1 (b : Bool) : bitAt (bit1 b) 0 = b := by cases b <;> rfl

@[simp] theorem whenZero_zero {n : Nat} (e : DecodeError) (i : Instr) : whenZero (0#n) e i = .instr i := by
  simp [whenZero]

/-- The opcode of a command word. -/
theorem opcode_cmd (op : BitVec 8) (r : BitVec 24) : field (op ++ r : BitVec (8 + 24)) 24 8 = op :=
  BitVec.extractLsb'_append_eq_left

/-- The code of a 16-bit word. -/
theorem code_short (c : BitVec 4) (r : BitVec 12) : field (c ++ r : BitVec (4 + 12)) 12 4 = c :=
  BitVec.extractLsb'_append_eq_left

/-- A field of a command word's operand area. -/
theorem operand_cmd (op : BitVec 8) (r : BitVec 24) (lo len : Nat) (h : lo + len ≤ 24) :
    field (op ++ r : BitVec (8 + 24)) lo len = field r lo len := field_low op r lo len h

/-- A field below a 16-bit word's code. -/
theorem operand_short (c : BitVec 4) (r : BitVec 12) (lo len : Nat) (h : lo + len ≤ 12) :
    field (c ++ r : BitVec (4 + 12)) lo len = field r lo len := field_low c r lo len h

theorem operand_cmd_bit (op : BitVec 8) (r : BitVec 24) (k : Nat) (h : k < 24) :
    bitAt (op ++ r : BitVec (8 + 24)) k = bitAt r k := bitAt_low op r k h

theorem operand_short_bit (c : BitVec 4) (r : BitVec 12) (k : Nat) (h : k < 12) :
    bitAt (c ++ r : BitVec (4 + 12)) k = bitAt r k := bitAt_low c r k h

/-! ### The operand areas, field by field -/

@[simp] theorem addrArea_a (a : BusAddr) : field (0#17 ++ a : BitVec 24) 0 7 = a :=
  (field_low (0#17) a 0 7 (by decide)).trans (field_self a)

@[simp] theorem addrArea_zero17 (a : BusAddr) : field (0#17 ++ a : BitVec 24) 7 17 = 0#17 :=
  (field_high (0#17) a 7 17 (by decide)).trans (field_self (0#17))

@[simp] theorem dataArea_d (d : Byte) : field (0#16 ++ d : BitVec 24) 0 8 = d :=
  (field_low (0#16) d 0 8 (by decide)).trans (field_self d)

@[simp] theorem dataArea_zero16 (d : Byte) : field (0#16 ++ d : BitVec 24) 8 16 = 0#16 :=
  (field_high (0#16) d 8 16 (by decide)).trans (field_self (0#16))

@[simp] theorem stopArea_st (st : Bool) : bitAt (0#23 ++ bit1 st : BitVec 24) 0 = st :=
  (bitAt_low (0#23) (bit1 st) 0 (by decide)).trans (bitAt_bit1 st)

@[simp] theorem stopArea_zero23 (st : Bool) : field (0#23 ++ bit1 st : BitVec 24) 1 23 = 0#23 :=
  (field_high (0#23) (bit1 st) 1 23 (by decide)).trans (field_self (0#23))

@[simp] theorem pinArea_sda (scl sda : Byte) : field (0#8 ++ scl ++ sda : BitVec 24) 0 8 = sda :=
  (field_low (0#8 ++ scl) sda 0 8 (by decide)).trans (field_self sda)

@[simp] theorem pinArea_scl (scl sda : Byte) : field (0#8 ++ scl ++ sda : BitVec 24) 8 8 = scl :=
  (field_high (0#8 ++ scl) sda 8 8 (by decide)).trans ((field_low (0#8) scl 0 8 (by decide)).trans (field_self scl))

@[simp] theorem pinArea_zero8 (scl sda : Byte) : field (0#8 ++ scl ++ sda : BitVec 24) 16 8 = 0#8 :=
  (field_high (0#8 ++ scl) sda 16 8 (by decide)).trans ((field_high (0#8) scl 8 8 (by decide)).trans (field_self (0#8)))

@[simp] theorem reqArea_a (q : Byte) (st : Bool) (a : BusAddr) : field (0#8 ++ q ++ bit1 st ++ a : BitVec 24) 0 7 = a :=
  (field_low (0#8 ++ q ++ bit1 st) a 0 7 (by decide)).trans (field_self a)

@[simp] theorem reqArea_st (q : Byte) (st : Bool) (a : BusAddr) : bitAt (0#8 ++ q ++ bit1 st ++ a : BitVec 24) 7 = st :=
  (bitAt_high (0#8 ++ q ++ bit1 st) a 7 (by decide)).trans ((bitAt_low (0#8 ++ q) (bit1 st) 0 (by decide)).trans (bitAt_bit1 st))

@[simp] theorem reqArea_q (q : Byte) (st : Bool) (a : BusAddr) : field (0#8 ++ q ++ bit1 st ++ a : BitVec 24) 8 8 = q :=
  (field_high (0#8 ++ q ++ bit1 st) a 8 8 (by decide)).trans ((field_high (0#8 ++ q) (bit1 st) 1 8 (by decide)).trans ((field_low (0#8) q 0 8 (by decide)).trans (field_self q)))

@[simp] theorem reqArea_zero8 (q : Byte) (st : Bool) (a : BusAddr) : field (0#8 ++ q ++ bit1 st ++ a : BitVec 24) 16 8 = 0#8 :=
  (field_high (0#8 ++ q ++ bit1 st) a 16 8 (by decide)).trans ((field_high (0#8 ++ q) (bit1 st) 9 8 (by decide)).trans ((field_high (0#8) q 8 8 (by decide)).trans (field_self (0#8))))

@[simp] theorem byteEvent_d (ack : Bool) (d : Byte) : field (0#3 ++ bit1 ack ++ d : BitVec 12) 0 8 = d :=
  (field_low (0#3 ++ bit1 ack) d 0 8 (by decide)).trans (field_self d)

@[simp] theorem byteEvent_ack (ack : Bool) (d : Byte) : bitAt (0#3 ++ bit1 ack ++ d : BitVec 12) 8 = ack :=
  (bitAt_high (0#3 ++ bit1 ack) d 8 (by decide)).trans ((bitAt_low (0#3) (bit1 ack) 0 (by decide)).trans (bitAt_bit1 ack))

@[simp] theorem byteEvent_zero3 (ack : Bool) (d : Byte) : field (0#3 ++ bit1 ack ++ d : BitVec 12) 9 3 = 0#3 :=
  (field_high (0#3 ++ bit1 ack) d 9 3 (by decide)).trans ((field_high (0#3) (bit1 ack) 1 3 (by decide)).trans (field_self (0#3)))

@[simp] theorem dataShort_d (d : Byte) : field (0#4 ++ d : BitVec 12) 0 8 = d :=
  (field_low (0#4) d 0 8 (by decide)).trans (field_self d)

@[simp] theorem dataShort_zero4 (d : Byte) : field (0#4 ++ d : BitVec 12) 8 4 = 0#4 :=
  (field_high (0#4) d 8 4 (by decide)).trans (field_self (0#4))

@[simp] theorem ackShort_zero8 (ack : Bool) : field (0#3 ++ bit1 ack ++ 0#8 : BitVec 12) 0 8 = 0#8 :=
  (field_low (0#3 ++ bit1 ack) (0#8) 0 8 (by decide)).trans (field_self (0#8))

@[simp] theorem ackShort_ack (ack : Bool) : bitAt (0#3 ++ bit1 ack ++ 0#8 : BitVec 12) 8 = ack :=
  (bitAt_high (0#3 ++ bit1 ack) (0#8) 8 (by decide)).trans ((bitAt_low (0#3) (bit1 ack) 0 (by decide)).trans (bitAt_bit1 ack))

@[simp] theorem ackShort_zero3 (ack : Bool) : field (0#3 ++ bit1 ack ++ 0#8 : BitVec 12) 9 3 = 0#3 :=
  (field_high (0#3 ++ bit1 ack) (0#8) 9 3 (by decide)).trans ((field_high (0#3) (bit1 ack) 1 3 (by decide)).trans (field_self (0#3)))

@[simp] theorem addrShort_a (a : BusAddr) : field (0#5 ++ a : BitVec 12) 0 7 = a :=
  (field_low (0#5) a 0 7 (by decide)).trans (field_self a)

@[simp] theorem addrShort_zero5 (a : BusAddr) : field (0#5 ++ a : BitVec 12) 7 5 = 0#5 :=
  (field_high (0#5) a 7 5 (by decide)).trans (field_self (0#5))

end Sys2Proof
end

