-- ==== Sys2Proof/Laws/Memory.lean ====
section
/-! SUPPORT. The laws of a buffer as memory (20_memory.md R60, R75): a read after a write, and the canonical form. -/

namespace Sys2Proof.Machine.Memory

theorem read?_nil (i : Nat) : Memory.read? [] i = none := rfl

@[simp] theorem read?_write_same (m : Memory) (i : Nat) (b : Byte) : Memory.read? (m.write i b) i = some b := by
  induction m with
  | nil => simp [Memory.write, Memory.read?]
  | cons c rest ih =>
    obtain ⟨j, x⟩ := c
    unfold Memory.write
    split
    · simp [Memory.read?]
    · split
      · simp [Memory.read?]
      · simp [Memory.read?, *]

@[simp] theorem read?_write_other (m : Memory) {i k : Nat} (b : Byte) (h : k ≠ i) :
    Memory.read? (m.write i b) k = Memory.read? m k := by
  induction m with
  | nil => simp [Memory.write, Memory.read?, h]
  | cons c rest ih =>
    obtain ⟨j, x⟩ := c
    unfold Memory.write
    split
    · simp [Memory.read?, h]
    · split
      · subst j; simp [Memory.read?, h]
      · simp [Memory.read?, ih]

/-- One law for both cases. -/
theorem read?_write (m : Memory) (i k : Nat) (b : Byte) :
    Memory.read? (m.write i b) k = if k = i then some b else Memory.read? m k := by
  by_cases h : k = i
  · subst h; simp
  · simp [h]

theorem above_write {m : Memory} {i k : Nat} {b : Byte} (hk : k < i) (h : Memory.above k m = true) :
    Memory.above k (m.write i b) = true := by
  induction m with
  | nil => simpa [Memory.write, Memory.above] using hk
  | cons c rest ih =>
    obtain ⟨j, x⟩ := c
    simp only [Memory.above, Bool.and_eq_true, decide_eq_true_eq] at h
    unfold Memory.write
    split
    · simp [Memory.above, hk, h.1, h.2]
    · split
      · simp [Memory.above, hk, h.2]
      · simp [Memory.above, h.1, ih h.2]

theorem above_trans {m : Memory} {i j : Nat} (hij : i < j) (h : Memory.above j m = true) :
    Memory.above i m = true := by
  induction m with
  | nil => rfl
  | cons c rest ih =>
    obtain ⟨k, x⟩ := c
    simp only [Memory.above, Bool.and_eq_true, decide_eq_true_eq] at h ⊢
    exact ⟨by omega, ih h.2⟩

/-- A write keeps the canonical form. -/
theorem wf_write {m : Memory} (i : Nat) (b : Byte) (h : Memory.wf m = true) : Memory.wf (m.write i b) = true := by
  induction m with
  | nil => rfl
  | cons c rest ih =>
    obtain ⟨j, x⟩ := c
    simp only [Memory.wf, Bool.and_eq_true] at h
    unfold Memory.write
    split
    · rename_i hij
      simp [Memory.wf, Memory.above, hij, above_trans hij h.1, h.1, h.2]
    · split
      · rename_i hij; subst hij; simp [Memory.wf, h.1, h.2]
      · simp [Memory.wf, ih h.2, above_write (show j < i by omega) h.1]

/-- A write below the capacity keeps every index below it. -/
theorem below_write {m : Memory} {n i : Nat} (b : Byte) (hi : i < n) (h : Memory.below n m = true) :
    Memory.below n (m.write i b) = true := by
  induction m with
  | nil => simpa [Memory.write, Memory.below] using hi
  | cons c rest ih =>
    obtain ⟨j, x⟩ := c
    simp only [Memory.below, List.all_cons, Bool.and_eq_true, decide_eq_true_eq] at h ih ⊢
    unfold Memory.write
    split
    · simp only [List.all_cons, Bool.and_eq_true, decide_eq_true_eq]; exact ⟨hi, h.1, h.2⟩
    · split
      · simp only [List.all_cons, Bool.and_eq_true, decide_eq_true_eq]; exact ⟨hi, h.2⟩
      · simp only [List.all_cons, Bool.and_eq_true, decide_eq_true_eq]; exact ⟨h.1, ih h.2⟩

/-- An index below every listed one is unlisted. -/
theorem read?_none_of_above {m : Memory} {i : Nat} (h : Memory.above i m = true) : Memory.read? m i = none := by
  induction m with
  | nil => rfl
  | cons c rest ih =>
    obtain ⟨j, x⟩ := c
    simp only [Memory.above, Bool.and_eq_true, decide_eq_true_eq] at h
    simp [Memory.read?, show i ≠ j by omega, ih h.2]

theorem isSome_write {m : Memory} {i k : Nat} {b : Byte} (h : k = i ∨ (Memory.read? m k).isSome = true) :
    (Memory.read? (m.write i b) k).isSome = true := by
  rw [read?_write]
  split
  · rfl
  · exact h.resolve_left ‹_›

end Sys2Proof.Machine.Memory
end

