-- ==== Sys2Proof/Laws/State.lean ====
section
/-! SUPPORT. What each whole-record update does to each field: one lemma per field, true by unfolding, so that no
later proof unfolds an update. -/

namespace Sys2Proof.Machine.State

/-! ### emit -/

@[simp] theorem emit_cfg (s : State) (a : Act) : (s.emit a).cfg = s.cfg := rfl
@[simp] theorem emit_mode (s : State) (a : Act) : (s.emit a).mode = s.mode := rfl
@[simp] theorem emit_phase (s : State) (a : Act) : (s.emit a).phase = s.phase := rfl
@[simp] theorem emit_txn (s : State) (a : Act) : (s.emit a).txn = s.txn := rfl
@[simp] theorem emit_transmitting (s : State) (a : Act) : (s.emit a).transmitting = s.transmitting := rfl
@[simp] theorem emit_sendStop (s : State) (a : Act) : (s.emit a).sendStop = s.sendStop := rfl
@[simp] theorem emit_busHeld (s : State) (a : Act) : (s.emit a).busHeld = s.busHeld := rfl
@[simp] theorem emit_done (s : State) (a : Act) : (s.emit a).done = s.done := rfl
@[simp] theorem emit_status (s : State) (a : Act) : (s.emit a).status = s.status := rfl
@[simp] theorem emit_tx (s : State) (a : Act) : (s.emit a).tx = s.tx := rfl
@[simp] theorem emit_txLen (s : State) (a : Act) : (s.emit a).txLen = s.txLen := rfl
@[simp] theorem emit_txCur (s : State) (a : Act) : (s.emit a).txCur = s.txCur := rfl
@[simp] theorem emit_rx (s : State) (a : Act) : (s.emit a).rx = s.rx := rfl
@[simp] theorem emit_rxLen (s : State) (a : Act) : (s.emit a).rxLen = s.rxLen := rfl
@[simp] theorem emit_rxCur (s : State) (a : Act) : (s.emit a).rxCur = s.rxCur := rfl
@[simp] theorem emit_rxRemaining (s : State) (a : Act) : (s.emit a).rxRemaining = s.rxRemaining := rfl
@[simp] theorem emit_slaveAddr (s : State) (a : Act) : (s.emit a).slaveAddr = s.slaveAddr := rfl
@[simp] theorem emit_cbReceive (s : State) (a : Act) : (s.emit a).cbReceive = s.cbReceive := rfl
@[simp] theorem emit_cbRequest (s : State) (a : Act) : (s.emit a).cbRequest = s.cbRequest := rfl
@[simp] theorem emit_cbActive (s : State) (a : Act) : (s.emit a).cbActive = s.cbActive := rfl
@[simp] theorem emit_clockSetting (s : State) (a : Act) : (s.emit a).clockSetting = s.clockSetting := rfl
@[simp] theorem emit_pinScl (s : State) (a : Act) : (s.emit a).pinScl = s.pinScl := rfl
@[simp] theorem emit_pinSda (s : State) (a : Act) : (s.emit a).pinSda = s.pinSda := rfl
@[simp] theorem emit_out (s : State) (a : Act) : (s.emit a).out = s.out ++ [a] := rfl
@[simp] theorem emit_responses (s : State) (a : Act) : (s.emit a).responses = s.responses := rfl
@[simp] theorem emit_draws (s : State) (a : Act) : (s.emit a).draws = s.draws := rfl
@[simp] theorem emit_bufEpoch (s : State) (a : Act) : (s.emit a).bufEpoch = s.bufEpoch := rfl
@[simp] theorem emit_commands (s : State) (a : Act) : (s.emit a).commands = s.commands := rfl
@[simp] theorem emit_events (s : State) (a : Act) : (s.emit a).events = s.events := rfl
@[simp] theorem emit_actionPort (s : State) (a : Act) : (s.emit a).actionPort = s.actionPort ++ [a] := rfl
@[simp] theorem emit_agenda (s : State) (a : Act) : (s.emit a).agenda = s.agenda := rfl
@[simp] theorem emit_busUnit (s : State) (a : Act) : (s.emit a).busUnit = s.busUnit := rfl
@[simp] theorem emit_notices (s : State) (a : Act) : (s.emit a).notices = s.notices := rfl

/-! ### respond -/

@[simp] theorem respond_cfg (s : State) (v : BitVec 24) : (s.respond v).cfg = s.cfg := rfl
@[simp] theorem respond_mode (s : State) (v : BitVec 24) : (s.respond v).mode = s.mode := rfl
@[simp] theorem respond_phase (s : State) (v : BitVec 24) : (s.respond v).phase = s.phase := rfl
@[simp] theorem respond_txn (s : State) (v : BitVec 24) : (s.respond v).txn = s.txn := rfl
@[simp] theorem respond_transmitting (s : State) (v : BitVec 24) : (s.respond v).transmitting = s.transmitting := rfl
@[simp] theorem respond_sendStop (s : State) (v : BitVec 24) : (s.respond v).sendStop = s.sendStop := rfl
@[simp] theorem respond_busHeld (s : State) (v : BitVec 24) : (s.respond v).busHeld = s.busHeld := rfl
@[simp] theorem respond_done (s : State) (v : BitVec 24) : (s.respond v).done = s.done := rfl
@[simp] theorem respond_status (s : State) (v : BitVec 24) : (s.respond v).status = s.status := rfl
@[simp] theorem respond_tx (s : State) (v : BitVec 24) : (s.respond v).tx = s.tx := rfl
@[simp] theorem respond_txLen (s : State) (v : BitVec 24) : (s.respond v).txLen = s.txLen := rfl
@[simp] theorem respond_txCur (s : State) (v : BitVec 24) : (s.respond v).txCur = s.txCur := rfl
@[simp] theorem respond_rx (s : State) (v : BitVec 24) : (s.respond v).rx = s.rx := rfl
@[simp] theorem respond_rxLen (s : State) (v : BitVec 24) : (s.respond v).rxLen = s.rxLen := rfl
@[simp] theorem respond_rxCur (s : State) (v : BitVec 24) : (s.respond v).rxCur = s.rxCur := rfl
@[simp] theorem respond_rxRemaining (s : State) (v : BitVec 24) : (s.respond v).rxRemaining = s.rxRemaining := rfl
@[simp] theorem respond_slaveAddr (s : State) (v : BitVec 24) : (s.respond v).slaveAddr = s.slaveAddr := rfl
@[simp] theorem respond_cbReceive (s : State) (v : BitVec 24) : (s.respond v).cbReceive = s.cbReceive := rfl
@[simp] theorem respond_cbRequest (s : State) (v : BitVec 24) : (s.respond v).cbRequest = s.cbRequest := rfl
@[simp] theorem respond_cbActive (s : State) (v : BitVec 24) : (s.respond v).cbActive = s.cbActive := rfl
@[simp] theorem respond_clockSetting (s : State) (v : BitVec 24) : (s.respond v).clockSetting = s.clockSetting := rfl
@[simp] theorem respond_pinScl (s : State) (v : BitVec 24) : (s.respond v).pinScl = s.pinScl := rfl
@[simp] theorem respond_pinSda (s : State) (v : BitVec 24) : (s.respond v).pinSda = s.pinSda := rfl
@[simp] theorem respond_out (s : State) (v : BitVec 24) : (s.respond v).out = s.out := rfl
@[simp] theorem respond_responses (s : State) (v : BitVec 24) : (s.respond v).responses = s.responses ++ [.value v] := rfl
@[simp] theorem respond_draws (s : State) (v : BitVec 24) : (s.respond v).draws = s.draws := rfl
@[simp] theorem respond_bufEpoch (s : State) (v : BitVec 24) : (s.respond v).bufEpoch = s.bufEpoch := rfl
@[simp] theorem respond_commands (s : State) (v : BitVec 24) : (s.respond v).commands = s.commands := rfl
@[simp] theorem respond_events (s : State) (v : BitVec 24) : (s.respond v).events = s.events := rfl
@[simp] theorem respond_actionPort (s : State) (v : BitVec 24) : (s.respond v).actionPort = s.actionPort := rfl
@[simp] theorem respond_agenda (s : State) (v : BitVec 24) : (s.respond v).agenda = s.agenda := rfl
@[simp] theorem respond_busUnit (s : State) (v : BitVec 24) : (s.respond v).busUnit = s.busUnit := rfl
@[simp] theorem respond_notices (s : State) (v : BitVec 24) : (s.respond v).notices = s.notices := rfl

/-! ### refuse -/

@[simp] theorem refuse_cfg (s : State) (r : Reason) : (s.refuse r).cfg = s.cfg := rfl
@[simp] theorem refuse_mode (s : State) (r : Reason) : (s.refuse r).mode = s.mode := rfl
@[simp] theorem refuse_phase (s : State) (r : Reason) : (s.refuse r).phase = s.phase := rfl
@[simp] theorem refuse_txn (s : State) (r : Reason) : (s.refuse r).txn = s.txn := rfl
@[simp] theorem refuse_transmitting (s : State) (r : Reason) : (s.refuse r).transmitting = s.transmitting := rfl
@[simp] theorem refuse_sendStop (s : State) (r : Reason) : (s.refuse r).sendStop = s.sendStop := rfl
@[simp] theorem refuse_busHeld (s : State) (r : Reason) : (s.refuse r).busHeld = s.busHeld := rfl
@[simp] theorem refuse_done (s : State) (r : Reason) : (s.refuse r).done = s.done := rfl
@[simp] theorem refuse_status (s : State) (r : Reason) : (s.refuse r).status = s.status := rfl
@[simp] theorem refuse_tx (s : State) (r : Reason) : (s.refuse r).tx = s.tx := rfl
@[simp] theorem refuse_txLen (s : State) (r : Reason) : (s.refuse r).txLen = s.txLen := rfl
@[simp] theorem refuse_txCur (s : State) (r : Reason) : (s.refuse r).txCur = s.txCur := rfl
@[simp] theorem refuse_rx (s : State) (r : Reason) : (s.refuse r).rx = s.rx := rfl
@[simp] theorem refuse_rxLen (s : State) (r : Reason) : (s.refuse r).rxLen = s.rxLen := rfl
@[simp] theorem refuse_rxCur (s : State) (r : Reason) : (s.refuse r).rxCur = s.rxCur := rfl
@[simp] theorem refuse_rxRemaining (s : State) (r : Reason) : (s.refuse r).rxRemaining = s.rxRemaining := rfl
@[simp] theorem refuse_slaveAddr (s : State) (r : Reason) : (s.refuse r).slaveAddr = s.slaveAddr := rfl
@[simp] theorem refuse_cbReceive (s : State) (r : Reason) : (s.refuse r).cbReceive = s.cbReceive := rfl
@[simp] theorem refuse_cbRequest (s : State) (r : Reason) : (s.refuse r).cbRequest = s.cbRequest := rfl
@[simp] theorem refuse_cbActive (s : State) (r : Reason) : (s.refuse r).cbActive = s.cbActive := rfl
@[simp] theorem refuse_clockSetting (s : State) (r : Reason) : (s.refuse r).clockSetting = s.clockSetting := rfl
@[simp] theorem refuse_pinScl (s : State) (r : Reason) : (s.refuse r).pinScl = s.pinScl := rfl
@[simp] theorem refuse_pinSda (s : State) (r : Reason) : (s.refuse r).pinSda = s.pinSda := rfl
@[simp] theorem refuse_out (s : State) (r : Reason) : (s.refuse r).out = s.out := rfl
@[simp] theorem refuse_responses (s : State) (r : Reason) : (s.refuse r).responses = s.responses ++ [.refused r] := rfl
@[simp] theorem refuse_draws (s : State) (r : Reason) : (s.refuse r).draws = s.draws := rfl
@[simp] theorem refuse_bufEpoch (s : State) (r : Reason) : (s.refuse r).bufEpoch = s.bufEpoch := rfl
@[simp] theorem refuse_commands (s : State) (r : Reason) : (s.refuse r).commands = s.commands := rfl
@[simp] theorem refuse_events (s : State) (r : Reason) : (s.refuse r).events = s.events := rfl
@[simp] theorem refuse_actionPort (s : State) (r : Reason) : (s.refuse r).actionPort = s.actionPort := rfl
@[simp] theorem refuse_agenda (s : State) (r : Reason) : (s.refuse r).agenda = s.agenda := rfl
@[simp] theorem refuse_busUnit (s : State) (r : Reason) : (s.refuse r).busUnit = s.busUnit := rfl
@[simp] theorem refuse_notices (s : State) (r : Reason) : (s.refuse r).notices = s.notices := rfl

/-! ### hold -/

@[simp] theorem hold_cfg (s : State) (i : Instr) : (s.hold i).cfg = s.cfg := rfl
@[simp] theorem hold_mode (s : State) (i : Instr) : (s.hold i).mode = s.mode := rfl
@[simp] theorem hold_phase (s : State) (i : Instr) : (s.hold i).phase = s.phase := rfl
@[simp] theorem hold_txn (s : State) (i : Instr) : (s.hold i).txn = s.txn := rfl
@[simp] theorem hold_transmitting (s : State) (i : Instr) : (s.hold i).transmitting = s.transmitting := rfl
@[simp] theorem hold_sendStop (s : State) (i : Instr) : (s.hold i).sendStop = s.sendStop := rfl
@[simp] theorem hold_busHeld (s : State) (i : Instr) : (s.hold i).busHeld = s.busHeld := rfl
@[simp] theorem hold_done (s : State) (i : Instr) : (s.hold i).done = s.done := rfl
@[simp] theorem hold_status (s : State) (i : Instr) : (s.hold i).status = s.status := rfl
@[simp] theorem hold_tx (s : State) (i : Instr) : (s.hold i).tx = s.tx := rfl
@[simp] theorem hold_txLen (s : State) (i : Instr) : (s.hold i).txLen = s.txLen := rfl
@[simp] theorem hold_txCur (s : State) (i : Instr) : (s.hold i).txCur = s.txCur := rfl
@[simp] theorem hold_rx (s : State) (i : Instr) : (s.hold i).rx = s.rx := rfl
@[simp] theorem hold_rxLen (s : State) (i : Instr) : (s.hold i).rxLen = s.rxLen := rfl
@[simp] theorem hold_rxCur (s : State) (i : Instr) : (s.hold i).rxCur = s.rxCur := rfl
@[simp] theorem hold_rxRemaining (s : State) (i : Instr) : (s.hold i).rxRemaining = s.rxRemaining := rfl
@[simp] theorem hold_slaveAddr (s : State) (i : Instr) : (s.hold i).slaveAddr = s.slaveAddr := rfl
@[simp] theorem hold_cbReceive (s : State) (i : Instr) : (s.hold i).cbReceive = s.cbReceive := rfl
@[simp] theorem hold_cbRequest (s : State) (i : Instr) : (s.hold i).cbRequest = s.cbRequest := rfl
@[simp] theorem hold_cbActive (s : State) (i : Instr) : (s.hold i).cbActive = s.cbActive := rfl
@[simp] theorem hold_clockSetting (s : State) (i : Instr) : (s.hold i).clockSetting = s.clockSetting := rfl
@[simp] theorem hold_pinScl (s : State) (i : Instr) : (s.hold i).pinScl = s.pinScl := rfl
@[simp] theorem hold_pinSda (s : State) (i : Instr) : (s.hold i).pinSda = s.pinSda := rfl
@[simp] theorem hold_out (s : State) (i : Instr) : (s.hold i).out = s.out := rfl
@[simp] theorem hold_responses (s : State) (i : Instr) : (s.hold i).responses = s.responses := rfl
@[simp] theorem hold_draws (s : State) (i : Instr) : (s.hold i).draws = s.draws := rfl
@[simp] theorem hold_bufEpoch (s : State) (i : Instr) : (s.hold i).bufEpoch = s.bufEpoch := rfl
@[simp] theorem hold_commands (s : State) (i : Instr) : (s.hold i).commands = s.commands := rfl
@[simp] theorem hold_events (s : State) (i : Instr) : (s.hold i).events = eventWord i :: s.events := rfl
@[simp] theorem hold_actionPort (s : State) (i : Instr) : (s.hold i).actionPort = s.actionPort := rfl
@[simp] theorem hold_agenda (s : State) (i : Instr) : (s.hold i).agenda = s.agenda := rfl
@[simp] theorem hold_busUnit (s : State) (i : Instr) : (s.hold i).busUnit = s.busUnit := rfl
@[simp] theorem hold_notices (s : State) (i : Instr) : (s.hold i).notices = s.notices := rfl

/-! ### stageAddress -/

@[simp] theorem stageAddress_cfg (s : State) (a : BusAddr) (r : Bool) : (s.stageAddress a r).cfg = s.cfg := rfl
@[simp] theorem stageAddress_mode (s : State) (a : BusAddr) (r : Bool) : (s.stageAddress a r).mode = s.mode := rfl
@[simp] theorem stageAddress_phase (s : State) (a : BusAddr) (r : Bool) : (s.stageAddress a r).phase = s.phase := rfl
@[simp] theorem stageAddress_txn (s : State) (a : BusAddr) (r : Bool) : (s.stageAddress a r).txn = s.txn := rfl
@[simp] theorem stageAddress_transmitting (s : State) (a : BusAddr) (r : Bool) : (s.stageAddress a r).transmitting = s.transmitting := rfl
@[simp] theorem stageAddress_sendStop (s : State) (a : BusAddr) (r : Bool) : (s.stageAddress a r).sendStop = s.sendStop := rfl
@[simp] theorem stageAddress_busHeld (s : State) (a : BusAddr) (r : Bool) : (s.stageAddress a r).busHeld = s.busHeld := rfl
@[simp] theorem stageAddress_done (s : State) (a : BusAddr) (r : Bool) : (s.stageAddress a r).done = s.done := rfl
@[simp] theorem stageAddress_status (s : State) (a : BusAddr) (r : Bool) : (s.stageAddress a r).status = s.status := rfl
@[simp] theorem stageAddress_tx (s : State) (a : BusAddr) (r : Bool) : (s.stageAddress a r).tx = Memory.write s.tx 0 (addressByte a r) := rfl
@[simp] theorem stageAddress_txLen (s : State) (a : BusAddr) (r : Bool) : (s.stageAddress a r).txLen = 1 := rfl
@[simp] theorem stageAddress_txCur (s : State) (a : BusAddr) (r : Bool) : (s.stageAddress a r).txCur = 0 := rfl
@[simp] theorem stageAddress_rx (s : State) (a : BusAddr) (r : Bool) : (s.stageAddress a r).rx = s.rx := rfl
@[simp] theorem stageAddress_rxLen (s : State) (a : BusAddr) (r : Bool) : (s.stageAddress a r).rxLen = s.rxLen := rfl
@[simp] theorem stageAddress_rxCur (s : State) (a : BusAddr) (r : Bool) : (s.stageAddress a r).rxCur = s.rxCur := rfl
@[simp] theorem stageAddress_rxRemaining (s : State) (a : BusAddr) (r : Bool) : (s.stageAddress a r).rxRemaining = s.rxRemaining := rfl
@[simp] theorem stageAddress_slaveAddr (s : State) (a : BusAddr) (r : Bool) : (s.stageAddress a r).slaveAddr = s.slaveAddr := rfl
@[simp] theorem stageAddress_cbReceive (s : State) (a : BusAddr) (r : Bool) : (s.stageAddress a r).cbReceive = s.cbReceive := rfl
@[simp] theorem stageAddress_cbRequest (s : State) (a : BusAddr) (r : Bool) : (s.stageAddress a r).cbRequest = s.cbRequest := rfl
@[simp] theorem stageAddress_cbActive (s : State) (a : BusAddr) (r : Bool) : (s.stageAddress a r).cbActive = s.cbActive := rfl
@[simp] theorem stageAddress_clockSetting (s : State) (a : BusAddr) (r : Bool) : (s.stageAddress a r).clockSetting = s.clockSetting := rfl
@[simp] theorem stageAddress_pinScl (s : State) (a : BusAddr) (r : Bool) : (s.stageAddress a r).pinScl = s.pinScl := rfl
@[simp] theorem stageAddress_pinSda (s : State) (a : BusAddr) (r : Bool) : (s.stageAddress a r).pinSda = s.pinSda := rfl
@[simp] theorem stageAddress_out (s : State) (a : BusAddr) (r : Bool) : (s.stageAddress a r).out = s.out := rfl
@[simp] theorem stageAddress_responses (s : State) (a : BusAddr) (r : Bool) : (s.stageAddress a r).responses = s.responses := rfl
@[simp] theorem stageAddress_draws (s : State) (a : BusAddr) (r : Bool) : (s.stageAddress a r).draws = s.draws := rfl
@[simp] theorem stageAddress_bufEpoch (s : State) (a : BusAddr) (r : Bool) : (s.stageAddress a r).bufEpoch = s.bufEpoch := rfl
@[simp] theorem stageAddress_commands (s : State) (a : BusAddr) (r : Bool) : (s.stageAddress a r).commands = s.commands := rfl
@[simp] theorem stageAddress_events (s : State) (a : BusAddr) (r : Bool) : (s.stageAddress a r).events = s.events := rfl
@[simp] theorem stageAddress_actionPort (s : State) (a : BusAddr) (r : Bool) : (s.stageAddress a r).actionPort = s.actionPort := rfl
@[simp] theorem stageAddress_agenda (s : State) (a : BusAddr) (r : Bool) : (s.stageAddress a r).agenda = s.agenda := rfl
@[simp] theorem stageAddress_busUnit (s : State) (a : BusAddr) (r : Bool) : (s.stageAddress a r).busUnit = s.busUnit := rfl
@[simp] theorem stageAddress_notices (s : State) (a : BusAddr) (r : Bool) : (s.stageAddress a r).notices = s.notices := rfl

/-! ### resetRx -/

@[simp] theorem resetRx_cfg (s : State) : (s.resetRx).cfg = s.cfg := rfl
@[simp] theorem resetRx_mode (s : State) : (s.resetRx).mode = s.mode := rfl
@[simp] theorem resetRx_phase (s : State) : (s.resetRx).phase = s.phase := rfl
@[simp] theorem resetRx_txn (s : State) : (s.resetRx).txn = s.txn := rfl
@[simp] theorem resetRx_transmitting (s : State) : (s.resetRx).transmitting = s.transmitting := rfl
@[simp] theorem resetRx_sendStop (s : State) : (s.resetRx).sendStop = s.sendStop := rfl
@[simp] theorem resetRx_busHeld (s : State) : (s.resetRx).busHeld = s.busHeld := rfl
@[simp] theorem resetRx_done (s : State) : (s.resetRx).done = s.done := rfl
@[simp] theorem resetRx_status (s : State) : (s.resetRx).status = s.status := rfl
@[simp] theorem resetRx_tx (s : State) : (s.resetRx).tx = s.tx := rfl
@[simp] theorem resetRx_txLen (s : State) : (s.resetRx).txLen = s.txLen := rfl
@[simp] theorem resetRx_txCur (s : State) : (s.resetRx).txCur = s.txCur := rfl
@[simp] theorem resetRx_rx (s : State) : (s.resetRx).rx = s.rx := rfl
@[simp] theorem resetRx_rxLen (s : State) : (s.resetRx).rxLen = 0 := rfl
@[simp] theorem resetRx_rxCur (s : State) : (s.resetRx).rxCur = 0 := rfl
@[simp] theorem resetRx_rxRemaining (s : State) : (s.resetRx).rxRemaining = s.rxRemaining := rfl
@[simp] theorem resetRx_slaveAddr (s : State) : (s.resetRx).slaveAddr = s.slaveAddr := rfl
@[simp] theorem resetRx_cbReceive (s : State) : (s.resetRx).cbReceive = s.cbReceive := rfl
@[simp] theorem resetRx_cbRequest (s : State) : (s.resetRx).cbRequest = s.cbRequest := rfl
@[simp] theorem resetRx_cbActive (s : State) : (s.resetRx).cbActive = s.cbActive := rfl
@[simp] theorem resetRx_clockSetting (s : State) : (s.resetRx).clockSetting = s.clockSetting := rfl
@[simp] theorem resetRx_pinScl (s : State) : (s.resetRx).pinScl = s.pinScl := rfl
@[simp] theorem resetRx_pinSda (s : State) : (s.resetRx).pinSda = s.pinSda := rfl
@[simp] theorem resetRx_out (s : State) : (s.resetRx).out = s.out := rfl
@[simp] theorem resetRx_responses (s : State) : (s.resetRx).responses = s.responses := rfl
@[simp] theorem resetRx_draws (s : State) : (s.resetRx).draws = s.draws := rfl
@[simp] theorem resetRx_bufEpoch (s : State) : (s.resetRx).bufEpoch = s.bufEpoch := rfl
@[simp] theorem resetRx_commands (s : State) : (s.resetRx).commands = s.commands := rfl
@[simp] theorem resetRx_events (s : State) : (s.resetRx).events = s.events := rfl
@[simp] theorem resetRx_actionPort (s : State) : (s.resetRx).actionPort = s.actionPort := rfl
@[simp] theorem resetRx_agenda (s : State) : (s.resetRx).agenda = s.agenda := rfl
@[simp] theorem resetRx_busUnit (s : State) : (s.resetRx).busUnit = s.busUnit := rfl
@[simp] theorem resetRx_notices (s : State) : (s.resetRx).notices = s.notices := rfl

/-! ### complete -/

@[simp] theorem complete_cfg (s : State) : (s.complete).cfg = s.cfg := rfl
@[simp] theorem complete_mode (s : State) : (s.complete).mode = s.mode := rfl
@[simp] theorem complete_phase (s : State) : (s.complete).phase = .idle := rfl
@[simp] theorem complete_txn (s : State) : (s.complete).txn = .idle := rfl
@[simp] theorem complete_transmitting (s : State) : (s.complete).transmitting = s.transmitting := rfl
@[simp] theorem complete_sendStop (s : State) : (s.complete).sendStop = s.sendStop := rfl
@[simp] theorem complete_busHeld (s : State) : (s.complete).busHeld = s.busHeld := rfl
@[simp] theorem complete_done (s : State) : (s.complete).done = true := rfl
@[simp] theorem complete_status (s : State) : (s.complete).status = s.status := rfl
@[simp] theorem complete_tx (s : State) : (s.complete).tx = s.tx := rfl
@[simp] theorem complete_txLen (s : State) : (s.complete).txLen = s.txLen := rfl
@[simp] theorem complete_txCur (s : State) : (s.complete).txCur = s.txCur := rfl
@[simp] theorem complete_rx (s : State) : (s.complete).rx = s.rx := rfl
@[simp] theorem complete_rxLen (s : State) : (s.complete).rxLen = s.rxLen := rfl
@[simp] theorem complete_rxCur (s : State) : (s.complete).rxCur = if s.txn = .requesting then 0 else s.rxCur := rfl
@[simp] theorem complete_rxRemaining (s : State) : (s.complete).rxRemaining = s.rxRemaining := rfl
@[simp] theorem complete_slaveAddr (s : State) : (s.complete).slaveAddr = s.slaveAddr := rfl
@[simp] theorem complete_cbReceive (s : State) : (s.complete).cbReceive = s.cbReceive := rfl
@[simp] theorem complete_cbRequest (s : State) : (s.complete).cbRequest = s.cbRequest := rfl
@[simp] theorem complete_cbActive (s : State) : (s.complete).cbActive = s.cbActive := rfl
@[simp] theorem complete_clockSetting (s : State) : (s.complete).clockSetting = s.clockSetting := rfl
@[simp] theorem complete_pinScl (s : State) : (s.complete).pinScl = s.pinScl := rfl
@[simp] theorem complete_pinSda (s : State) : (s.complete).pinSda = s.pinSda := rfl
@[simp] theorem complete_out (s : State) : (s.complete).out = s.out := rfl
@[simp] theorem complete_responses (s : State) : (s.complete).responses = s.responses := rfl
@[simp] theorem complete_draws (s : State) : (s.complete).draws = s.draws := rfl
@[simp] theorem complete_bufEpoch (s : State) : (s.complete).bufEpoch = s.bufEpoch := rfl
@[simp] theorem complete_commands (s : State) : (s.complete).commands = s.commands := rfl
@[simp] theorem complete_events (s : State) : (s.complete).events = s.events := rfl
@[simp] theorem complete_actionPort (s : State) : (s.complete).actionPort = s.actionPort := rfl
@[simp] theorem complete_agenda (s : State) : (s.complete).agenda = s.agenda := rfl
@[simp] theorem complete_busUnit (s : State) : (s.complete).busUnit = s.busUnit := rfl
@[simp] theorem complete_notices (s : State) : (s.complete).notices = s.notices := rfl

/-! ### enterHandler -/

@[simp] theorem enterHandler_cfg (s : State) (c : CbActive) (a : Act) : (s.enterHandler c a).cfg = s.cfg := rfl
@[simp] theorem enterHandler_mode (s : State) (c : CbActive) (a : Act) : (s.enterHandler c a).mode = s.mode := rfl
@[simp] theorem enterHandler_phase (s : State) (c : CbActive) (a : Act) : (s.enterHandler c a).phase = s.phase := rfl
@[simp] theorem enterHandler_txn (s : State) (c : CbActive) (a : Act) : (s.enterHandler c a).txn = s.txn := rfl
@[simp] theorem enterHandler_transmitting (s : State) (c : CbActive) (a : Act) : (s.enterHandler c a).transmitting = s.transmitting := rfl
@[simp] theorem enterHandler_sendStop (s : State) (c : CbActive) (a : Act) : (s.enterHandler c a).sendStop = s.sendStop := rfl
@[simp] theorem enterHandler_busHeld (s : State) (c : CbActive) (a : Act) : (s.enterHandler c a).busHeld = s.busHeld := rfl
@[simp] theorem enterHandler_done (s : State) (c : CbActive) (a : Act) : (s.enterHandler c a).done = s.done := rfl
@[simp] theorem enterHandler_status (s : State) (c : CbActive) (a : Act) : (s.enterHandler c a).status = s.status := rfl
@[simp] theorem enterHandler_tx (s : State) (c : CbActive) (a : Act) : (s.enterHandler c a).tx = s.tx := rfl
@[simp] theorem enterHandler_txLen (s : State) (c : CbActive) (a : Act) : (s.enterHandler c a).txLen = s.txLen := rfl
@[simp] theorem enterHandler_txCur (s : State) (c : CbActive) (a : Act) : (s.enterHandler c a).txCur = s.txCur := rfl
@[simp] theorem enterHandler_rx (s : State) (c : CbActive) (a : Act) : (s.enterHandler c a).rx = s.rx := rfl
@[simp] theorem enterHandler_rxLen (s : State) (c : CbActive) (a : Act) : (s.enterHandler c a).rxLen = s.rxLen := rfl
@[simp] theorem enterHandler_rxCur (s : State) (c : CbActive) (a : Act) : (s.enterHandler c a).rxCur = s.rxCur := rfl
@[simp] theorem enterHandler_rxRemaining (s : State) (c : CbActive) (a : Act) : (s.enterHandler c a).rxRemaining = s.rxRemaining := rfl
@[simp] theorem enterHandler_slaveAddr (s : State) (c : CbActive) (a : Act) : (s.enterHandler c a).slaveAddr = s.slaveAddr := rfl
@[simp] theorem enterHandler_cbReceive (s : State) (c : CbActive) (a : Act) : (s.enterHandler c a).cbReceive = s.cbReceive := rfl
@[simp] theorem enterHandler_cbRequest (s : State) (c : CbActive) (a : Act) : (s.enterHandler c a).cbRequest = s.cbRequest := rfl
@[simp] theorem enterHandler_cbActive (s : State) (c : CbActive) (a : Act) : (s.enterHandler c a).cbActive = c := rfl
@[simp] theorem enterHandler_clockSetting (s : State) (c : CbActive) (a : Act) : (s.enterHandler c a).clockSetting = s.clockSetting := rfl
@[simp] theorem enterHandler_pinScl (s : State) (c : CbActive) (a : Act) : (s.enterHandler c a).pinScl = s.pinScl := rfl
@[simp] theorem enterHandler_pinSda (s : State) (c : CbActive) (a : Act) : (s.enterHandler c a).pinSda = s.pinSda := rfl
@[simp] theorem enterHandler_out (s : State) (c : CbActive) (a : Act) : (s.enterHandler c a).out = s.out ++ [a] := rfl
@[simp] theorem enterHandler_responses (s : State) (c : CbActive) (a : Act) : (s.enterHandler c a).responses = s.responses := rfl
@[simp] theorem enterHandler_draws (s : State) (c : CbActive) (a : Act) : (s.enterHandler c a).draws = s.draws := rfl
@[simp] theorem enterHandler_bufEpoch (s : State) (c : CbActive) (a : Act) : (s.enterHandler c a).bufEpoch = s.bufEpoch := rfl
@[simp] theorem enterHandler_commands (s : State) (c : CbActive) (a : Act) : (s.enterHandler c a).commands = s.commands := rfl
@[simp] theorem enterHandler_events (s : State) (c : CbActive) (a : Act) : (s.enterHandler c a).events = s.events := rfl
@[simp] theorem enterHandler_actionPort (s : State) (c : CbActive) (a : Act) : (s.enterHandler c a).actionPort = s.actionPort ++ [a] := rfl
@[simp] theorem enterHandler_agenda (s : State) (c : CbActive) (a : Act) : (s.enterHandler c a).agenda = s.agenda := rfl
@[simp] theorem enterHandler_busUnit (s : State) (c : CbActive) (a : Act) : (s.enterHandler c a).busUnit = s.busUnit := rfl
@[simp] theorem enterHandler_notices (s : State) (c : CbActive) (a : Act) : (s.enterHandler c a).notices = s.notices := rfl

/-! ### leaveHandler -/

@[simp] theorem leaveHandler_cfg (s : State) : (s.leaveHandler).cfg = s.cfg := rfl
@[simp] theorem leaveHandler_mode (s : State) : (s.leaveHandler).mode = s.mode := rfl
@[simp] theorem leaveHandler_phase (s : State) : (s.leaveHandler).phase = s.phase := rfl
@[simp] theorem leaveHandler_txn (s : State) : (s.leaveHandler).txn = s.txn := rfl
@[simp] theorem leaveHandler_transmitting (s : State) : (s.leaveHandler).transmitting = s.transmitting := rfl
@[simp] theorem leaveHandler_sendStop (s : State) : (s.leaveHandler).sendStop = s.sendStop := rfl
@[simp] theorem leaveHandler_busHeld (s : State) : (s.leaveHandler).busHeld = s.busHeld := rfl
@[simp] theorem leaveHandler_done (s : State) : (s.leaveHandler).done = s.done := rfl
@[simp] theorem leaveHandler_status (s : State) : (s.leaveHandler).status = s.status := rfl
@[simp] theorem leaveHandler_tx (s : State) : (s.leaveHandler).tx = s.tx := rfl
@[simp] theorem leaveHandler_txLen (s : State) : (s.leaveHandler).txLen = s.txLen := rfl
@[simp] theorem leaveHandler_txCur (s : State) : (s.leaveHandler).txCur = s.txCur := rfl
@[simp] theorem leaveHandler_rx (s : State) : (s.leaveHandler).rx = s.rx := rfl
@[simp] theorem leaveHandler_rxLen (s : State) : (s.leaveHandler).rxLen = s.rxLen := rfl
@[simp] theorem leaveHandler_rxCur (s : State) : (s.leaveHandler).rxCur = s.rxCur := rfl
@[simp] theorem leaveHandler_rxRemaining (s : State) : (s.leaveHandler).rxRemaining = s.rxRemaining := rfl
@[simp] theorem leaveHandler_slaveAddr (s : State) : (s.leaveHandler).slaveAddr = s.slaveAddr := rfl
@[simp] theorem leaveHandler_cbReceive (s : State) : (s.leaveHandler).cbReceive = s.cbReceive := rfl
@[simp] theorem leaveHandler_cbRequest (s : State) : (s.leaveHandler).cbRequest = s.cbRequest := rfl
@[simp] theorem leaveHandler_cbActive (s : State) : (s.leaveHandler).cbActive = .noCallback := rfl
@[simp] theorem leaveHandler_clockSetting (s : State) : (s.leaveHandler).clockSetting = s.clockSetting := rfl
@[simp] theorem leaveHandler_pinScl (s : State) : (s.leaveHandler).pinScl = s.pinScl := rfl
@[simp] theorem leaveHandler_pinSda (s : State) : (s.leaveHandler).pinSda = s.pinSda := rfl
@[simp] theorem leaveHandler_out (s : State) : (s.leaveHandler).out = s.out := rfl
@[simp] theorem leaveHandler_responses (s : State) : (s.leaveHandler).responses = s.responses := rfl
@[simp] theorem leaveHandler_draws (s : State) : (s.leaveHandler).draws = s.draws := rfl
@[simp] theorem leaveHandler_bufEpoch (s : State) : (s.leaveHandler).bufEpoch = s.bufEpoch := rfl
@[simp] theorem leaveHandler_commands (s : State) : (s.leaveHandler).commands = s.commands := rfl
@[simp] theorem leaveHandler_events (s : State) : (s.leaveHandler).events = s.events := rfl
@[simp] theorem leaveHandler_actionPort (s : State) : (s.leaveHandler).actionPort = s.actionPort := rfl
@[simp] theorem leaveHandler_agenda (s : State) : (s.leaveHandler).agenda = s.agenda := rfl
@[simp] theorem leaveHandler_busUnit (s : State) : (s.leaveHandler).busUnit = s.busUnit := rfl
@[simp] theorem leaveHandler_notices (s : State) : (s.leaveHandler).notices = s.notices := rfl

end Sys2Proof.Machine.State
end

