-- ==== Sys2Proof/Laws/Ops.lean ====
section
/-! SUPPORT. One lemma per shared operation of Ops, Operands, Flags and Sequencer: everything it can do, said once. -/

namespace Sys2Proof.Machine

/-! ### Operand forms -/

/-- The address byte is the address over the R/W bit (30 R95). -/
theorem addressByte_eq (a : BusAddr) (r : Bool) : addressByte a r = a ++ BitVec.ofBool r := by
  cases r <;> (revert a; decide)

@[simp] theorem addressOf_addressByte (a : BusAddr) (r : Bool) : addressOf (addressByte a r) = a := by
  cases r <;> (revert a; decide)

@[simp] theorem readBit_addressByte (a : BusAddr) (r : Bool) : readBit (addressByte a r) = r := by
  cases r <;> (revert a; decide)

/-- An address byte is its two fields, read back (30 R95). -/
theorem addressByte_fields (b : Byte) : addressByte (addressOf b) (readBit b) = b := by
  revert b; decide

/-! ### The buffers -/

namespace State

theorem txByte?_of_lt {s : State} {i : Nat} (h : i < s.cfg.txCapacity) :
    s.txByte? i = some ((s.tx.read? i).getD (Config.unwrittenTx s.bufEpoch i)) := by simp [txByte?, h]

theorem rxByte?_of_lt {s : State} {i : Nat} (h : i < s.cfg.rxCapacity) :
    s.rxByte? i = some ((s.rx.read? i).getD (Config.unwrittenRx s.bufEpoch i)) := by simp [rxByte?, h]

theorem txByte?_isSome_iff {s : State} {i : Nat} : (s.txByte? i).isSome = true ↔ i < s.cfg.txCapacity := by
  by_cases h : i < s.cfg.txCapacity <;> simp [txByte?, h]

theorem rxByte?_isSome_iff {s : State} {i : Nat} : (s.rxByte? i).isSome = true ↔ i < s.cfg.rxCapacity := by
  by_cases h : i < s.cfg.rxCapacity <;> simp [rxByte?, h]

/-- A byte that was written reads as written. -/
theorem txByte?_written {s : State} {i : Nat} {b : Byte} (h : i < s.cfg.txCapacity) (hb : s.tx.read? i = some b) :
    s.txByte? i = some b := by simp [txByte?, h, hb]

theorem rxByte?_written {s : State} {i : Nat} {b : Byte} (h : i < s.cfg.rxCapacity) (hb : s.rx.read? i = some b) :
    s.rxByte? i = some b := by simp [rxByte?, h, hb]

theorem stageByte_room {s : State} {b : Byte} (h : s.txLen < s.cfg.txCapacity) :
    s.stageByte b = ({ s with tx := s.tx.write s.txLen b, txLen := s.txLen + 1 }, 1) := by simp [stageByte, h]

theorem stageByte_full {s : State} {b : Byte} (h : ¬s.txLen < s.cfg.txCapacity) : s.stageByte b = (s, 0) := by
  simp [stageByte, h]

theorem pushReceived_room {s : State} {b : Byte} (h : s.rxLen < s.cfg.rxCapacity) :
    s.pushReceived b = { s with rx := s.rx.write s.rxLen b, rxLen := s.rxLen + 1 } := by simp [pushReceived, h]

theorem pushReceived_full {s : State} {b : Byte} (h : ¬s.rxLen < s.cfg.rxCapacity) : s.pushReceived b = s := by
  simp [pushReceived, h]

/-- Receiving a byte changes RX and its length, nothing else. -/
theorem pushReceived_eq (s : State) (b : Byte) :
    s.pushReceived b = { s with
      rx := if s.rxLen < s.cfg.rxCapacity then s.rx.write s.rxLen b else s.rx
      rxLen := if s.rxLen < s.cfg.rxCapacity then s.rxLen + 1 else s.rxLen } := by
  by_cases h : s.rxLen < s.cfg.rxCapacity <;> simp [pushReceived, h]

/-- Taking a byte: there is one and the cursor moves, there is none, or the index does not exist. -/
theorem takeByte_cases (s : State) :
    (∃ b, s.rxCur < s.rxLen ∧ s.rxByte? s.rxCur = some b ∧
      s.takeByte = .ok (some b, { s with rxCur := s.rxCur + 1 })) ∨
    (¬s.rxCur < s.rxLen ∧ s.takeByte = .ok (none, s)) ∨
    (s.rxCur < s.rxLen ∧ s.cfg.rxCapacity ≤ s.rxCur ∧ s.takeByte = .error (.outsideRx s.rxCur)) := by
  by_cases h : s.rxCur < s.rxLen
  · by_cases hc : s.rxCur < s.cfg.rxCapacity
    · exact .inl ⟨_, h, rxByte?_of_lt hc, by simp [takeByte, h, rxByte?_of_lt hc]⟩
    · exact .inr (.inr ⟨h, by omega, by simp [takeByte, h, rxByte?, hc]⟩)
  · exact .inr (.inl ⟨h, by simp [takeByte, h]⟩)

/-- Peeking: there is a byte, there is none, or the index does not exist. -/
theorem peek_cases (s : State) :
    (∃ b, s.rxCur < s.rxLen ∧ s.rxByte? s.rxCur = some b ∧ s.peek = .ok (some b)) ∨
    (¬s.rxCur < s.rxLen ∧ s.peek = .ok none) ∨
    (s.rxCur < s.rxLen ∧ s.cfg.rxCapacity ≤ s.rxCur ∧ s.peek = .error (.outsideRx s.rxCur)) := by
  by_cases h : s.rxCur < s.rxLen
  · by_cases hc : s.rxCur < s.cfg.rxCapacity
    · exact .inl ⟨_, h, rxByte?_of_lt hc, by simp [peek, h, rxByte?_of_lt hc]⟩
    · exact .inr (.inr ⟨h, by omega, by simp [peek, h, rxByte?, hc]⟩)
  · exact .inr (.inl ⟨h, by simp [peek, h]⟩)

/-! ### Ending a transaction -/

/-- A forced stop: STOP is emitted, and awaited or, without stop detection, followed by completion. -/
theorem forceStop_cases (s : State) :
    (s.cfg.stopDetect = true ∧ s.forceStop = { s.emit .stop with phase := .stopPending }) ∨
    (s.cfg.stopDetect = false ∧ s.forceStop = (s.emit .stop).complete) := by
  cases h : s.cfg.stopDetect <;> simp [forceStop, h]

/-- A data phase that ended without error: a forced stop, or completion with the bus held. -/
theorem finishOk_cases (s : State) :
    (s.sendStop = true ∧ s.finishOk = { s with status := .success }.forceStop) ∨
    (s.sendStop = false ∧ s.finishOk = { s with status := .success, busHeld := true }.complete) := by
  cases h : s.sendStop <;> simp [finishOk, h]

/-- An abort: RELEASE is emitted and the transaction is complete, with RX emptied by a timed-out request only. -/
theorem abort_cases (s : State) (st : Status) :
    (st = .timeout ∧ s.txn = .requesting ∧
      s.abort st = { { s with status := st }.emit .release with rxLen := 0, rxCur := 0 }.complete) ∨
    (¬(st = .timeout ∧ s.txn = .requesting) ∧ s.abort st = ({ s with status := st }.emit .release).complete) := by
  by_cases h : st = .timeout ∧ s.txn = .requesting
  · exact .inl ⟨h.1, h.2, by simp only [abort, h, and_self, if_true]⟩
  · exact .inr ⟨h, by simp only [abort, h, if_false]⟩

end State

/-! ### Sending -/

/-- The next byte of a write: sent, or the data phase is over, or the index does not exist. -/
theorem writeNext_cases (s : State) :
    (∃ b, s.txCur < s.txLen ∧ s.txByte? s.txCur = some b ∧
      writeNext s = .next { s.emit (.send b) with txCur := s.txCur + 1, phase := .dataPhase .write }) ∨
    (¬s.txCur < s.txLen ∧ writeNext s = .next s.finishOk) ∨
    (s.txCur < s.txLen ∧ s.cfg.txCapacity ≤ s.txCur ∧ writeNext s = .fault (.outsideTx s.txCur)) := by
  by_cases h : s.txCur < s.txLen
  · by_cases hc : s.txCur < s.cfg.txCapacity
    · exact .inl ⟨_, h, State.txByte?_of_lt hc, by simp [writeNext, h, State.txByte?_of_lt hc]⟩
    · exact .inr (.inr ⟨h, by omega, by simp [writeNext, h, State.txByte?, hc]⟩)
  · exact .inr (.inl ⟨h, by simp [writeNext, h]⟩)

/-- The next byte of a read: asked for, with NAK only for the last, or the data phase is over. -/
theorem readNext_cases (s : State) :
    (s.rxRemaining = 0 ∧ readNext s = s.finishOk) ∨
    (1 ≤ s.rxRemaining ∧
      readNext s = { s.emit (.recv (decide (2 ≤ s.rxRemaining))) with phase := .dataPhase .read }) := by
  by_cases h : s.rxRemaining = 0
  · exact .inl ⟨h, by simp [readNext, h]⟩
  · have e : decide (s.rxRemaining ≠ 1) = decide (2 ≤ s.rxRemaining) := decide_eq_decide.2 (by omega)
    exact .inr ⟨by omega, by simp only [readNext, h, if_false, e]⟩

/-- The slave's next byte: the staged one, a fill byte, or an index that does not exist. -/
theorem slaveSend_cases (s : State) :
    (∃ b, s.txCur < s.txLen ∧ s.txByte? s.txCur = some b ∧
      slaveSend s = .next { s.emit (.send b) with txCur := s.txCur + 1 }) ∨
    (¬s.txCur < s.txLen ∧ slaveSend s = .next (s.fillByte.2.emit (.send s.fillByte.1))) ∨
    (s.txCur < s.txLen ∧ s.cfg.txCapacity ≤ s.txCur ∧ slaveSend s = .fault (.outsideTx s.txCur)) := by
  by_cases h : s.txCur < s.txLen
  · by_cases hc : s.txCur < s.cfg.txCapacity
    · exact .inl ⟨_, h, State.txByte?_of_lt hc, by simp [slaveSend, h, State.txByte?_of_lt hc]⟩
    · exact .inr (.inr ⟨h, by omega, by simp [slaveSend, h, State.txByte?, hc]⟩)
  · exact .inr (.inl ⟨h, by simp [slaveSend, h]⟩)

/-- A fill byte: the configuration's, with nothing changed, or a drawn one, with the counter moved. -/
theorem fillByte_cases (s : State) :
    (∃ b, s.cfg.slaveTxFill = some b ∧ s.fillByte = (b, s)) ∨
    (s.cfg.slaveTxFill = none ∧ s.fillByte = (Config.freeByte s.draws, { s with draws := s.draws + 1 })) := by
  cases h : s.cfg.slaveTxFill <;> simp [State.fillByte, h]

/-! ### The sequencer's frame -/

/-- `t` is `s` but for the registers of a transaction in flight, with `as` emitted: no memory, no operand latch, no
mode, handler, staging flag, divider or pin is touched. -/
def SequencerFrame (s t : State) (as : List Act) : Prop :=
  t = { s with
    phase := t.phase
    txn := t.txn
    done := t.done
    busHeld := t.busHeld
    status := t.status
    txCur := t.txCur
    rxLen := t.rxLen
    rxCur := t.rxCur
    draws := t.draws
    out := s.out ++ as
    actionPort := s.actionPort ++ as }

theorem complete_frame (s : State) : SequencerFrame s s.complete [] := by
  simp only [SequencerFrame, List.append_nil]; rfl

theorem forceStop_frame (s : State) : SequencerFrame s s.forceStop [.stop] := by
  rcases s.forceStop_cases with ⟨_, e⟩ | ⟨_, e⟩ <;> rw [e] <;> rfl

theorem finishOk_frame (s : State) :
    SequencerFrame s s.finishOk (if s.sendStop = true then [.stop] else []) := by
  rcases s.finishOk_cases with ⟨h, e⟩ | ⟨h, e⟩ <;> rw [e]
  · rw [if_pos h]
    rcases State.forceStop_cases { s with status := .success } with ⟨_, e⟩ | ⟨_, e⟩ <;> rw [e] <;> rfl
  · rw [if_neg (by simp [h])]
    simp only [SequencerFrame, List.append_nil]; rfl

theorem abort_frame (s : State) (st : Status) : SequencerFrame s (s.abort st) [.release] := by
  rcases s.abort_cases st with ⟨_, _, e⟩ | ⟨_, e⟩ <;> rw [e] <;> rfl

/-- The class is written, then STOP or RELEASE is emitted. -/
theorem raise_frame (s : State) (e : Status) :
    ∃ as, SequencerFrame s (s.raise e) as ∧ (e = .success ∧ as = [] ∨ (as = [.stop] ∨ as = [.release])) := by
  cases e with
  | success => exact ⟨[], by simp only [SequencerFrame, List.append_nil]; rfl, .inl ⟨rfl, rfl⟩⟩
  | addressNak =>
    exact ⟨[.stop], by rw [SequencerFrame]; rcases State.forceStop_cases { s with status := .addressNak } with
      ⟨_, e⟩ | ⟨_, e⟩ <;> simp only [State.raise] <;> rw [e] <;> rfl, .inr (.inl rfl)⟩
  | dataNak =>
    exact ⟨[.stop], by rw [SequencerFrame]; rcases State.forceStop_cases { s with status := .dataNak } with
      ⟨_, e⟩ | ⟨_, e⟩ <;> simp only [State.raise] <;> rw [e] <;> rfl, .inr (.inl rfl)⟩
  | arbitrationLost => exact ⟨_, abort_frame s _, .inr (.inr rfl)⟩
  | timeout => exact ⟨_, abort_frame s _, .inr (.inr rfl)⟩

/-- What write_next emits: one SEND, or what ends a data phase. -/
theorem writeNext_frame {s t : State} (h : writeNext s = .next t) :
    ∃ as, SequencerFrame s t as ∧ ((∃ b, as = [.send b]) ∨ as = [.stop] ∨ as = []) := by
  rcases writeNext_cases s with ⟨b, _, _, e⟩ | ⟨_, e⟩ | ⟨_, _, e⟩ <;> rw [e] at h <;> cases h
  · exact ⟨_, rfl, .inl ⟨b, rfl⟩⟩
  · refine ⟨_, finishOk_frame s, .inr ?_⟩
    cases s.sendStop <;> simp

/-- What read_next emits: one RECV, or what ends a data phase. -/
theorem readNext_frame (s : State) :
    ∃ as, SequencerFrame s (readNext s) as ∧ ((∃ k, as = [.recv k]) ∨ as = [.stop] ∨ as = []) := by
  rcases readNext_cases s with ⟨_, e⟩ | ⟨_, e⟩ <;> rw [e]
  · refine ⟨_, finishOk_frame s, .inr ?_⟩
    cases s.sendStop <;> simp
  · exact ⟨_, rfl, .inl ⟨_, rfl⟩⟩

/-- The slave sends exactly one byte: only the cursor or the draw counter moves. -/
theorem slaveSend_frame {s t : State} (h : slaveSend s = .next t) :
    ∃ b, t = { s with
      txCur := t.txCur
      draws := t.draws
      out := s.out ++ [.send b]
      actionPort := s.actionPort ++ [.send b] } := by
  rcases slaveSend_cases s with ⟨b, _, _, e⟩ | ⟨_, e⟩ | ⟨_, _, e⟩ <;> rw [e] at h <;> cases h
  · exact ⟨b, rfl⟩
  · rcases fillByte_cases s with ⟨b, _, e⟩ | ⟨_, e⟩ <;> rw [e]
    · exact ⟨b, rfl⟩
    · exact ⟨_, rfl⟩

/-! ### The two skeletons -/

/-- A command that reaches a next state: refused by the gate, or accepted and run. -/
theorem command_next {c : Command} {s t : State} {body : State → Host.Outcome State Fault Refusal}
    (h : command c s body = .next t) :
    (∃ r, gate c s = some r ∧ t = s.refuse r) ∨ (gate c s = none ∧ body s = .next t) := by
  unfold command at h
  split at h
  next r hr => exact .inl ⟨r, hr, by injection h with h; exact h.symm⟩
  next hr => exact .inr ⟨hr, h⟩

/-- An event that reaches a next state: ignored in Off, held by a handler, or run in its mode. -/
theorem event_next {i : Instr} {s t : State} {inMaster inSlave : State → Host.Outcome State Fault Refusal}
    (h : event i s inMaster inSlave = .next t) :
    (s.mode = .off ∧ t = s) ∨
    (s.mode ≠ .off ∧ s.cbActive ≠ .noCallback ∧ t = s.hold i) ∨
    (s.mode = .master ∧ s.cbActive = .noCallback ∧ inMaster s = .next t) ∨
    (s.mode = .slave ∧ s.cbActive = .noCallback ∧ inSlave s = .next t) := by
  unfold event at h
  split at h
  next hm => injection h with h; exact .inl ⟨hm, h.symm⟩
  next hm =>
    by_cases hc : s.cbActive = .noCallback
    · exact .inr (.inr (.inl ⟨hm, hc, by simpa [hc] using h⟩))
    · simp only [hc, if_false] at h
      injection h with h
      exact .inr (.inl ⟨by simp [hm], hc, h.symm⟩)
  next hm =>
    by_cases hc : s.cbActive = .noCallback
    · exact .inr (.inr (.inr ⟨hm, hc, by simpa [hc] using h⟩))
    · simp only [hc, if_false] at h
      injection h with h
      exact .inr (.inl ⟨by simp [hm], hc, h.symm⟩)

/-- Going on after an outcome reaches a next state only from one. -/
theorem mapNext_next {f : State → State} {o : Host.Outcome State Fault Refusal} {t : State}
    (h : mapNext f o = .next t) : ∃ u, o = .next u ∧ t = f u := by
  cases o with
  | next u => exact ⟨u, rfl, by simp only [mapNext] at h; injection h with h; exact h.symm⟩
  | fault r => cases h
  | refused r => cases h

/-! ### The gate -/

/-- In Off the gate asks only whether the command is one of the six. -/
theorem gate_off {c : Command} {s : State} (h : s.mode = .off) :
    gate c s = if acceptedOff.contains c then none else some .notBegun := by simp [gate, h]

/-- Outside Off, outside a handler and in Idle: the mode and the staging flag decide. -/
theorem gate_idle {c : Command} {s : State} (h : s.mode ≠ .off) (hc : s.cbActive = .noCallback) (hp : s.phase = .idle) :
    gate c s =
      if c = .beginMaster ∨ c = .beginSlave then some .alreadyBegun
      else if c = .cbReturn then some .noCallback
      else if s.mode = .slave ∧ masterCommands.contains c = true then some .wrongMode
      else if c = .endTx ∧ s.transmitting = false then some .notTransmitting
      else if c = .reqFrom ∧ s.transmitting = true then some .stagingOpen
      else none := by simp [gate, h, hc, hp]

/-- Inside a handler: eight commands are accepted. -/
theorem gate_callback {c : Command} {s : State} (h : s.mode ≠ .off) (hc : s.cbActive ≠ .noCallback) :
    gate c s =
      if c = .beginMaster ∨ c = .beginSlave then some .alreadyBegun
      else if acceptedInCallback.contains c then none else some .inCallback := by simp [gate, h, hc]

/-! ### Reset -/

/-- The buffers of a machine just powered on are in canonical form and list nothing. -/
theorem afterPowerOn_memory_wf (c : Config) :
    Memory.wf (State.afterPowerOn c).tx = true ∧ Memory.wf (State.afterPowerOn c).rx = true := ⟨rfl, rfl⟩

theorem reset_memory_wf : Memory.wf State.reset.tx = true ∧ Memory.wf State.reset.rx = true :=
  afterPowerOn_memory_wf _

/-! ### Every operation that stores keeps the canonical form -/

theorem stageAddress_tx_wf {s : State} {a : BusAddr} {r : Bool} (h : Memory.wf s.tx = true) :
    Memory.wf (s.stageAddress a r).tx = true := Memory.wf_write _ _ h

theorem stageByte_tx_wf {s : State} {b : Byte} (h : Memory.wf s.tx = true) :
    Memory.wf (s.stageByte b).1.tx = true := by
  by_cases hr : s.txLen < s.cfg.txCapacity
  · rw [State.stageByte_room hr]; exact Memory.wf_write _ _ h
  · rw [State.stageByte_full hr]; exact h

theorem stageBytes_tx_wf {s : State} (bs : List Byte) (h : Memory.wf s.tx = true) :
    Memory.wf (s.stageBytes bs).1.tx = true := by
  induction bs generalizing s with
  | nil => exact h
  | cons b rest ih => exact ih (stageByte_tx_wf h)

theorem pushReceived_rx_wf {s : State} {b : Byte} (h : Memory.wf s.rx = true) :
    Memory.wf (s.pushReceived b).rx = true := by
  by_cases hr : s.rxLen < s.cfg.rxCapacity
  · rw [State.pushReceived_room hr]; exact Memory.wf_write _ _ h
  · rw [State.pushReceived_full hr]; exact h

theorem scrambleBuffers_wf (s : State) :
    Memory.wf s.scrambleBuffers.tx = true ∧ Memory.wf s.scrambleBuffers.rx = true := ⟨rfl, rfl⟩

end Sys2Proof.Machine
end

