-- ==== Sys2Proof/Laws/Safety.lean ====
section
/-! SUPPORT. The invariants of 10_state.md R38 as five shapes, and what they depend on. -/

namespace Sys2Proof.Machine

/-- Cursors and lengths are in bounds (R38 items 2 and 3). -/
def State.Bounds (s : State) : Prop :=
  s.txCur ≤ s.txLen ∧ s.txLen ≤ s.cfg.txCapacity ∧ s.rxCur ≤ s.rxLen ∧ s.rxLen ≤ s.cfg.rxCapacity

/-- The unit is not begun. -/
def State.OffShape (s : State) : Prop :=
  s.mode = .off ∧ s.phase = .idle ∧ s.txn = .idle ∧ s.cbActive = .noCallback ∧ s.busHeld = false ∧
    s.transmitting = false ∧ s.done = false

/-- A master between transactions. -/
def State.MasterIdleShape (s : State) : Prop :=
  s.mode = .master ∧ s.phase = .idle ∧ s.txn = .idle ∧ s.cbActive = .noCallback ∧
    (s.transmitting = true → 1 ≤ s.txLen)

/-- The phases a transaction passes through (R38 item 1). -/
def flightPair (k : Txn) (p : Phase) : Bool :=
  match k, p with
  | .transmitting, .startPending => true
  | .transmitting, .addressPhase => true
  | .transmitting, .dataPhase .write => true
  | .transmitting, .stopPending => true
  | .requesting, .startPending => true
  | .requesting, .addressPhase => true
  | .requesting, .dataPhase .read => true
  | .requesting, .stopPending => true
  | _, _ => false

/-- A master with a transaction in flight. -/
def State.MasterFlightShape (s : State) : Prop :=
  s.mode = .master ∧ flightPair s.txn s.phase = true ∧ s.cbActive = .noCallback ∧ s.transmitting = false ∧
    s.busHeld = false ∧ s.done = false ∧ (s.phase ≠ .stopPending → 1 ≤ s.txLen)

/-- A slave that is not addressed. -/
def State.SlaveIdleShape (s : State) : Prop :=
  s.mode = .slave ∧ s.phase = .idle ∧ s.txn = .idle ∧ s.cbActive ≠ .request ∧ s.transmitting = false ∧
    s.busHeld = false ∧ s.done = false

/-- A slave that is addressed. -/
def State.SlaveBusyShape (s : State) : Prop :=
  s.mode = .slave ∧ s.txn = .slaveAddressed ∧ s.transmitting = false ∧ s.busHeld = false ∧ s.done = false ∧
    (s.phase = .slaveAddressed .receive ∧ s.cbActive = .noCallback ∨
      s.phase = .slaveAddressed .transmit ∧ s.cbActive ≠ .receive)

/-- Exactly one of the five. -/
def State.Shape (s : State) : Prop :=
  s.OffShape ∨ s.MasterIdleShape ∨ s.MasterFlightShape ∨ s.SlaveIdleShape ∨ s.SlaveBusyShape

/-- The pairs of a transaction in flight are phases of the master. -/
theorem flightPair_inFlight {k : Txn} {p : Phase} (h : flightPair k p = true) : p.masterInFlight = true := by
  revert h; cases k <;> cases p <;> (try (rename_i d; cases d)) <;> decide

theorem Inv_bounds {s : State} (h : s.Inv) : s.Bounds := ⟨h.tx_bounds.1, h.tx_bounds.2, h.rx_bounds.1, h.rx_bounds.2⟩

/-- From the invariants to a shape. -/
theorem Inv_shape {s : State} (h : s.Inv) : s.Shape := by
  have idle : s.phase = .idle → s.txn = .idle := h.txn_idle_iff.2
  have cb : s.cbActive = .noCallback ∨ s.cbActive = .receive ∨ s.cbActive = .request := by cases s.cbActive <;> simp
  cases hm : s.mode with
  | off =>
    obtain ⟨hp, hc, hb, ht⟩ := h.off hm
    have hd : s.done = false := by
      cases hd : s.done
      · rfl
      · have := (h.finished hd).1; rw [hm] at this; cases this
    exact .inl ⟨hm, hp, idle hp, hc, hb, ht, hd⟩
  | master =>
    obtain ⟨hc, h1, h2⟩ := h.master hm
    by_cases hp : s.phase = .idle
    · exact .inr (.inl ⟨hm, hp, idle hp, hc, fun ht => (h.staging ht).2.2⟩)
    · have hk : flightPair s.txn s.phase = true := by
        cases hk : s.txn with
        | idle => exact absurd (h.txn_idle_iff.1 hk) hp
        | transmitting => rcases h.txn_transmitting hk with e | e | e | e <;> rw [e] <;> rfl
        | requesting => rcases h.txn_requesting hk with e | e | e | e <;> rw [e] <;> rfl
        | slaveAddressed => rcases h.txn_slave_iff.1 hk with e | e <;> contradiction
      have ht : s.transmitting = false := by
        cases ht : s.transmitting
        · rfl
        · exact absurd (h.staging ht).2.1 hp
      have hb : s.busHeld = false := by
        cases hb : s.busHeld
        · rfl
        · exact absurd (h.held hb).2 hp
      have hd : s.done = false := by
        cases hd : s.done
        · rfl
        · exact absurd (h.finished hd).2 hp
      refine .inr (.inr (.inl ⟨hm, hk, hc, ht, hb, hd, fun hs => h.address_staged ?_⟩))
      revert hk hs
      cases s.txn <;> cases s.phase <;> (try (rename_i d; cases d)) <;> simp [flightPair]
  | slave =>
    obtain ⟨hp, ht, hb⟩ := h.slave hm
    have hd : s.done = false := by
      cases hd : s.done
      · rfl
      · have := (h.finished hd).1; rw [hm] at this; cases this
    rcases hp with hp | hp | hp
    · refine .inr (.inr (.inr (.inl ⟨hm, hp, idle hp, fun hc => ?_, ht, hb, hd⟩)))
      have := h.in_request hc; rw [hp] at this; cases this
    · refine .inr (.inr (.inr (.inr ⟨hm, h.txn_slave_iff.2 (.inl hp), ht, hb, hd, .inl ⟨hp, ?_⟩⟩)))
      rcases cb with hc | hc | hc
      · exact hc
      · have := (h.in_receive hc).1; rw [hp] at this; cases this
      · have := h.in_request hc; rw [hp] at this; cases this
    · refine .inr (.inr (.inr (.inr ⟨hm, h.txn_slave_iff.2 (.inr hp), ht, hb, hd, .inr ⟨hp, fun hc => ?_⟩⟩)))
      have := (h.in_receive hc).1; rw [hp] at this; cases this

theorem Inv_of_off {s : State} (hb : s.Bounds) (h : s.OffShape) : s.Inv := by
  obtain ⟨hm, hp, hk, hc, hh, ht, hd⟩ := h
  constructor <;> simp [hm, hp, hk, hc, hh, ht, hd, hb.1, hb.2.1, hb.2.2.1, hb.2.2.2]

theorem Inv_of_masterIdle {s : State} (hb : s.Bounds) (h : s.MasterIdleShape) : s.Inv := by
  obtain ⟨hm, hp, hk, hc, ht⟩ := h
  constructor <;> simp [hm, hp, hk, hc, hb.1, hb.2.1, hb.2.2.1, hb.2.2.2]
  exact ht

theorem Inv_of_masterFlight {s : State} (hb : s.Bounds) (h : s.MasterFlightShape) : s.Inv := by
  obtain ⟨hm, hk, hc, ht, hh, hd, hl⟩ := h
  obtain ⟨b1, b2, b3, b4⟩ := hb
  revert hk hl
  cases ek : s.txn <;> cases ep : s.phase <;> (try (rename_i d; cases d)) <;> simp only [flightPair] <;>
    intro hk hl <;> first
    | exact absurd hk (by decide)
    | (have hl' := hl (by decide)
       constructor <;> simp [hm, ek, ep, hc, hh, ht, hd, b1, b2, b3, b4, hl'])
    | (constructor <;> simp [hm, ek, ep, hc, hh, ht, hd, b1, b2, b3, b4])

theorem Inv_of_slaveIdle {s : State} (hb : s.Bounds) (h : s.SlaveIdleShape) : s.Inv := by
  obtain ⟨hm, hp, hk, hc, ht, hh, hd⟩ := h
  constructor <;> simp [hm, hp, hk, hc, hh, ht, hd, hb.1, hb.2.1, hb.2.2.1, hb.2.2.2]

theorem Inv_of_slaveBusy {s : State} (hb : s.Bounds) (h : s.SlaveBusyShape) : s.Inv := by
  obtain ⟨hm, hk, ht, hh, hd, ⟨hp, hc⟩ | ⟨hp, hc⟩⟩ := h <;>
    constructor <;> simp [hm, hp, hk, hc, hh, ht, hd, hb.1, hb.2.1, hb.2.2.1, hb.2.2.2]

/-- The invariants are the bounds and one of the five shapes. -/
theorem Inv_iff (s : State) : s.Inv ↔ s.Bounds ∧ s.Shape :=
  ⟨fun h => ⟨Inv_bounds h, Inv_shape h⟩, fun ⟨hb, h⟩ => by
    rcases h with h | h | h | h | h
    · exact Inv_of_off hb h
    · exact Inv_of_masterIdle hb h
    · exact Inv_of_masterFlight hb h
    · exact Inv_of_slaveIdle hb h
    · exact Inv_of_slaveBusy hb h⟩

/-- The invariants speak of these fields only. -/
theorem Inv_congr {s t : State} (h : s.Inv) (e1 : t.cfg = s.cfg) (e2 : t.mode = s.mode) (e3 : t.phase = s.phase)
    (e4 : t.txn = s.txn) (e5 : t.transmitting = s.transmitting) (e6 : t.busHeld = s.busHeld) (e7 : t.done = s.done)
    (e8 : t.txLen = s.txLen) (e9 : t.txCur = s.txCur) (e10 : t.rxLen = s.rxLen) (e11 : t.rxCur = s.rxCur)
    (e12 : t.cbActive = s.cbActive) : t.Inv := by
  rw [Inv_iff] at h ⊢
  simpa only [State.Bounds, State.Shape, State.OffShape, State.MasterIdleShape, State.MasterFlightShape,
    State.SlaveIdleShape, State.SlaveBusyShape, e1, e2, e3, e4, e5, e6, e7, e8, e9, e10, e11, e12] using h

end Sys2Proof.Machine
end

