-- ==== Sys2Proof/Laws/Step.lean ====
section
/-! SUPPORT. What fetching and one step can do, said once (00_scope.md R5 to R7, 60_exceptions.md R278, R279). -/

namespace Sys2Proof.Machine

/-- What is offered is a pending event, and every event before it is a held address match (60 R279; log 3). -/
theorem offered?_cases {s : State} {k : Nat} {w : EvtWord} (h : offered? s k = some w) :
    s.events[k]? = some w ∧
      (k = 0 ∨ ((∀ v ∈ s.events.take k, heldMatch s v = true) ∧ heldMatch s w = false)) := by
  unfold offered? at h
  split at h
  · cases h
  next v hv =>
    split at h
    next hk => cases h; exact ⟨hv, hk.imp_right fun ⟨a, b⟩ => ⟨List.all_eq_true.mp a, b⟩⟩
    · cases h

/-- Outside a slave transaction the unit offers its oldest event only: the order of the bus (60 R279). -/
theorem offered?_oldest {s : State} {k : Nat} {w : EvtWord} (h : offered? s k = some w)
    (hs : s.mode ≠ .slave ∨ s.cbActive ≠ .noCallback ∨ s.phase = .idle) : k = 0 := by
  obtain ⟨hw, hk | ⟨hk, -⟩⟩ := offered?_cases h
  · exact hk
  · cases k with
    | zero => rfl
    | succ n =>
      cases he : s.events with
      | nil => simp [he] at hw
      | cons v rest =>
        have hv := hk v (by simp [he])
        simp only [heldMatch, Bool.and_eq_true, decide_eq_true_eq] at hv
        tauto

/-- Taking a turn changes the ports only. -/
theorem takeTurn_frame (u : Turn) (s : State) :
    (takeTurn u s).2 = { s with
      commands := (takeTurn u s).2.commands
      events := (takeTurn u s).2.events
      actionPort := (takeTurn u s).2.actionPort } := by
  cases u <;> simp only [takeTurn] <;> (try split) <;> rfl

/-- Fetching changes the ports and the agenda only. -/
theorem fetch_frame (s : State) :
    (fetch s).2 = { s with
      commands := (fetch s).2.commands
      events := (fetch s).2.events
      actionPort := (fetch s).2.actionPort
      agenda := (fetch s).2.agenda } := by
  unfold fetch
  split
  · rfl
  · rw [takeTurn_frame]

/-! ### fetch, field by field -/

@[simp] theorem fetch_cfg (s : State) : (fetch s).2.cfg = s.cfg := (congrArg State.cfg (fetch_frame s) :)
@[simp] theorem fetch_mode (s : State) : (fetch s).2.mode = s.mode := (congrArg State.mode (fetch_frame s) :)
@[simp] theorem fetch_phase (s : State) : (fetch s).2.phase = s.phase := (congrArg State.phase (fetch_frame s) :)
@[simp] theorem fetch_txn (s : State) : (fetch s).2.txn = s.txn := (congrArg State.txn (fetch_frame s) :)
@[simp] theorem fetch_transmitting (s : State) : (fetch s).2.transmitting = s.transmitting := (congrArg State.transmitting (fetch_frame s) :)
@[simp] theorem fetch_sendStop (s : State) : (fetch s).2.sendStop = s.sendStop := (congrArg State.sendStop (fetch_frame s) :)
@[simp] theorem fetch_busHeld (s : State) : (fetch s).2.busHeld = s.busHeld := (congrArg State.busHeld (fetch_frame s) :)
@[simp] theorem fetch_done (s : State) : (fetch s).2.done = s.done := (congrArg State.done (fetch_frame s) :)
@[simp] theorem fetch_status (s : State) : (fetch s).2.status = s.status := (congrArg State.status (fetch_frame s) :)
@[simp] theorem fetch_tx (s : State) : (fetch s).2.tx = s.tx := (congrArg State.tx (fetch_frame s) :)
@[simp] theorem fetch_txLen (s : State) : (fetch s).2.txLen = s.txLen := (congrArg State.txLen (fetch_frame s) :)
@[simp] theorem fetch_txCur (s : State) : (fetch s).2.txCur = s.txCur := (congrArg State.txCur (fetch_frame s) :)
@[simp] theorem fetch_rx (s : State) : (fetch s).2.rx = s.rx := (congrArg State.rx (fetch_frame s) :)
@[simp] theorem fetch_rxLen (s : State) : (fetch s).2.rxLen = s.rxLen := (congrArg State.rxLen (fetch_frame s) :)
@[simp] theorem fetch_rxCur (s : State) : (fetch s).2.rxCur = s.rxCur := (congrArg State.rxCur (fetch_frame s) :)
@[simp] theorem fetch_rxRemaining (s : State) : (fetch s).2.rxRemaining = s.rxRemaining := (congrArg State.rxRemaining (fetch_frame s) :)
@[simp] theorem fetch_slaveAddr (s : State) : (fetch s).2.slaveAddr = s.slaveAddr := (congrArg State.slaveAddr (fetch_frame s) :)
@[simp] theorem fetch_cbReceive (s : State) : (fetch s).2.cbReceive = s.cbReceive := (congrArg State.cbReceive (fetch_frame s) :)
@[simp] theorem fetch_cbRequest (s : State) : (fetch s).2.cbRequest = s.cbRequest := (congrArg State.cbRequest (fetch_frame s) :)
@[simp] theorem fetch_cbActive (s : State) : (fetch s).2.cbActive = s.cbActive := (congrArg State.cbActive (fetch_frame s) :)
@[simp] theorem fetch_clockSetting (s : State) : (fetch s).2.clockSetting = s.clockSetting := (congrArg State.clockSetting (fetch_frame s) :)
@[simp] theorem fetch_pinScl (s : State) : (fetch s).2.pinScl = s.pinScl := (congrArg State.pinScl (fetch_frame s) :)
@[simp] theorem fetch_pinSda (s : State) : (fetch s).2.pinSda = s.pinSda := (congrArg State.pinSda (fetch_frame s) :)
@[simp] theorem fetch_out (s : State) : (fetch s).2.out = s.out := (congrArg State.out (fetch_frame s) :)
@[simp] theorem fetch_responses (s : State) : (fetch s).2.responses = s.responses := (congrArg State.responses (fetch_frame s) :)
@[simp] theorem fetch_draws (s : State) : (fetch s).2.draws = s.draws := (congrArg State.draws (fetch_frame s) :)
@[simp] theorem fetch_bufEpoch (s : State) : (fetch s).2.bufEpoch = s.bufEpoch := (congrArg State.bufEpoch (fetch_frame s) :)
@[simp] theorem fetch_busUnit (s : State) : (fetch s).2.busUnit = s.busUnit := (congrArg State.busUnit (fetch_frame s) :)
@[simp] theorem fetch_notices (s : State) : (fetch s).2.notices = s.notices := (congrArg State.notices (fetch_frame s) :)

/-- What is fetched from the action port was there, and what stays there was there. -/
theorem fetch_actionPort {s : State} {a : Act} (h : a ∈ (fetch s).2.actionPort) : a ∈ s.actionPort := by
  unfold fetch at h
  split at h
  · exact h
  next u rest _ =>
    cases u <;> simp only [takeTurn] at h <;> (try split at h) <;> simp_all

/-- An instruction fetched is a decoded command, a decoded event, an action off the port, or the wait bound's. -/
theorem fetch_instr {s t : State} {i : Instr} (h : fetch s = (.instr i, t)) :
    (∃ w, w ∈ s.commands ∧ decode (.cmd w) = .instr i) ∨ (∃ w, w ∈ s.events ∧ decode (.evt w) = .instr i) ∨
    (∃ a, a ∈ s.actionPort ∧ i = a.toInstr) ∨ i = .evTimeout := by
  unfold fetch at h
  split at h
  · simp at h
  next u rest _ =>
    cases u <;> simp only [takeTurn] at h
    · split at h
      · simp at h
      next w r hw =>
        simp only [readCommand, Prod.mk.injEq] at h
        refine .inl ⟨w, by simp_all, ?_⟩
        cases hd : decode (.cmd w) <;> simp_all
    · split at h
      · simp at h
      next w hw =>
        simp only [readEvent, Prod.mk.injEq] at h
        refine .inr (.inl ⟨w, List.mem_of_getElem? (offered?_cases hw).1, ?_⟩)
        cases hd : decode (.evt w) <;> simp_all
    · split at h
      · simp at h
      next a r hw =>
        simp only [Prod.mk.injEq, Fetched.instr.injEq] at h
        exact .inr (.inr (.inl ⟨a, by simp_all, h.1.symm⟩))
    · simp only [Prod.mk.injEq, Fetched.instr.injEq] at h
      exact .inr (.inr (.inr h.1.symm))

/-- A step that reaches a next state: a turn that brought nothing or an undecodable event, an undecodable command
refused, or an instruction run from the state with its word taken off. -/
theorem step_cases {s t : State} (h : step s = .next t) :
    t = (fetch s).2 ∨ t = (fetch s).2.refuse .illegalEncoding ∨
    ∃ i, (fetch s).1 = .instr i ∧ exec i (fetch s).2 = .next t := by
  unfold step at h
  split at h
  next u e => injection h with h; exact .inl (by rw [e]; exact h.symm)
  next i u e => exact .inr (.inr ⟨i, by rw [e], by rw [e]; exact h⟩)
  next u e => injection h with h; exact .inr (.inl (by rw [e]; exact h.symm))
  next u e => injection h with h; exact .inl (by rw [e]; exact h.symm)

end Sys2Proof.Machine
end

