-- ==== Sys2Proof/Laws/Exec.lean ====
section
/-! SUPPORT. What an event, an action and a command can do at all, each said once over all instructions of its kind
(30_encoding.md R101 to R103, 41_master_sequencer.md R169, 42_slave_sequencer.md R201, 43_host_commands.md R220). -/

namespace Sys2Proof.Machine

/-- `t` is `s` after an event that emitted `as`: the operand latch, the mode, the handlers registered, the staging
flag, the divider, the pins, the responses and the other ports are what they were. -/
def EventFrame (s t : State) (as : List Act) : Prop :=
  t = { s with
    phase := t.phase
    txn := t.txn
    done := t.done
    busHeld := t.busHeld
    status := t.status
    tx := t.tx
    txLen := t.txLen
    txCur := t.txCur
    rx := t.rx
    rxLen := t.rxLen
    rxCur := t.rxCur
    rxRemaining := t.rxRemaining
    cbActive := t.cbActive
    draws := t.draws
    events := t.events
    out := s.out ++ as
    actionPort := s.actionPort ++ as }

theorem EventFrame.refl (s : State) : EventFrame s s [] := by simp only [EventFrame, List.append_nil]

theorem SequencerFrame.toEvent {s t : State} {as : List Act} (h : SequencerFrame s t as) : EventFrame s t as := by
  rw [SequencerFrame] at h
  rw [EventFrame, h]

/-- What each of the events a master consumes can do. -/
theorem addressAnswered_frame {s t : State} {ack : Bool} (h : addressAnswered ack s = .next t) :
    ∃ as, EventFrame s t as ∧ ((∃ b, as = [.send b]) ∨ (∃ k, as = [.recv k]) ∨ as = [.stop] ∨ as = []) := by
  unfold addressAnswered at h
  split at h
  · split at h
    · obtain ⟨as, f, ha⟩ := writeNext_frame h
      rw [SequencerFrame] at f
      exact ⟨as, by rw [EventFrame, f], ha.imp_right .inr⟩
    · obtain ⟨as, f, ha⟩ := readNext_frame { s with phase := .dataPhase .read }
      cases h
      rw [SequencerFrame] at f
      exact ⟨as, by rw [EventFrame, f], .inr ha⟩
    · cases h; exact ⟨[], .refl s, .inr (.inr (.inr rfl))⟩
    · cases h; exact ⟨[], .refl s, .inr (.inr (.inr rfl))⟩
  · cases h; exact ⟨[.stop], (forceStop_frame { s with status := .addressNak }).toEvent, .inr (.inr (.inl rfl))⟩

theorem byteAnswered_frame {s t : State} {ack : Bool} (h : byteAnswered ack s = .next t) :
    ∃ as, EventFrame s t as ∧ ((∃ b, as = [.send b]) ∨ as = [.stop] ∨ as = []) := by
  unfold byteAnswered at h
  split at h
  · obtain ⟨as, f, ha⟩ := writeNext_frame h
    exact ⟨as, f.toEvent, ha⟩
  · cases h; exact ⟨[.stop], (forceStop_frame { s with status := .dataNak }).toEvent, .inr (.inl rfl)⟩

theorem byteArrived_frame (s : State) (d : Byte) :
    ∃ as, EventFrame s (byteArrived d s) as ∧ ((∃ k, as = [.recv k]) ∨ as = [.stop] ∨ as = []) := by
  obtain ⟨as, f, ha⟩ := readNext_frame { s.pushReceived d with rxRemaining := (s.pushReceived d).rxRemaining - 1 }
  refine ⟨as, ?_, ha⟩
  rw [SequencerFrame] at f
  unfold byteArrived
  rw [EventFrame, f, State.pushReceived_eq]

/-- Which actions an event emits: at most one, and never START, RESTART or an action of the lifecycle. -/
def eventAction : Act → Bool
  | .start => false
  | .restart => false
  | .send _ => true
  | .recv _ => true
  | .stop => true
  | .release => true
  | .cbReceive _ => true
  | .cbRequest => true
  | .setDiv _ => false
  | .setSaddr _ => false
  | .enable => false
  | .disable => false

/-- Everything an event does is in its frame; it emits at most one action. -/
theorem event_frame {i : Instr} {s t : State} (hi : isEvent i = true) (h : exec i s = .next t) :
    ∃ as, EventFrame s t as ∧ as.length ≤ 1 ∧ as.all eventAction = true := by
  have same : ∀ u : State, (Host.Outcome.next s : Host.Outcome State Fault Refusal) = .next u →
      ∃ as, EventFrame s u as ∧ as.length ≤ 1 ∧ as.all eventAction = true := by
    rintro u e; cases e; exact ⟨[], .refl s, by simp, rfl⟩
  have held : ∀ j, ∃ as, EventFrame s (s.hold j) as ∧ as.length ≤ 1 ∧ as.all eventAction = true := fun j =>
    ⟨[], by simp only [EventFrame, List.append_nil]; rfl, by simp, rfl⟩
  have delivered : ∃ as, EventFrame s (slaveDeliver s) as ∧ as.length ≤ 1 ∧ as.all eventAction = true := by
    unfold slaveDeliver
    split
    · exact ⟨[.cbReceive (countByte s.rxLen)], rfl, by simp, rfl⟩
    · exact ⟨[], by simp only [EventFrame, List.append_nil]; rfl, by simp, rfl⟩
  have ended : ∃ as, EventFrame s (slaveDone s) as ∧ as.length ≤ 1 ∧ as.all eventAction = true :=
    ⟨[], by simp only [EventFrame, List.append_nil]; rfl, by simp, rfl⟩
  have sends : ∀ u, slaveSend s = .next u → ∃ as, EventFrame s u as ∧ as.length ≤ 1 ∧ as.all eventAction = true := by
    intro u e
    obtain ⟨b, f⟩ := slaveSend_frame e
    exact ⟨[.send b], by rw [EventFrame, f], by simp, rfl⟩
  have short : ∀ as : List Act, ((∃ b, as = [.send b]) ∨ (∃ k, as = [.recv k]) ∨ as = [.stop] ∨ as = [.release] ∨
      as = []) → as.length ≤ 1 ∧ as.all eventAction = true := by
    rintro as (⟨b, rfl⟩ | ⟨k, rfl⟩ | rfl | rfl | rfl) <;> exact ⟨by simp, rfl⟩
  cases i with
  | evStart =>
    replace h : execEvStart s = .next t := h
    unfold execEvStart at h
    rcases event_next h with ⟨_, rfl⟩ | ⟨_, _, rfl⟩ | ⟨_, _, h⟩ | ⟨_, _, h⟩
    · exact same _ rfl
    · exact held _
    · split at h
      · unfold sendAddress at h
        split at h
        · cases h; exact ⟨[.send _], rfl, by simp, rfl⟩
        · cases h
      · exact same _ h
    · split at h
      · cases h; exact delivered
      · cases h; exact ended
      all_goals exact same _ h
  | evByte ack d =>
    replace h : execEvByte ack d s = .next t := h
    unfold execEvByte at h
    rcases event_next h with ⟨_, rfl⟩ | ⟨_, _, rfl⟩ | ⟨_, _, h⟩ | ⟨_, _, h⟩
    · exact same _ rfl
    · exact held _
    · split at h
      · obtain ⟨as, f, ha⟩ := addressAnswered_frame h
        exact ⟨as, f, short as (by tauto)⟩
      · obtain ⟨as, f, ha⟩ := byteAnswered_frame h
        exact ⟨as, f, short as (by tauto)⟩
      · obtain ⟨as, f, ha⟩ := byteArrived_frame s d
        cases h
        exact ⟨as, f, short as (by tauto)⟩
      all_goals exact same _ h
    · split at h
      · cases h
        exact ⟨[], by rw [EventFrame, State.pushReceived_eq]; simp, by simp, rfl⟩
      · split at h
        · exact sends _ h
        · cases h; exact ended
      all_goals exact same _ h
  | evArbLost =>
    replace h : execEvArbLost s = .next t := h
    unfold execEvArbLost at h
    rcases event_next h with ⟨_, rfl⟩ | ⟨_, _, rfl⟩ | ⟨_, _, h⟩ | ⟨_, _, h⟩
    · exact same _ rfl
    · exact held _
    · split at h
      · cases h; exact ⟨[.release], (abort_frame s _).toEvent, by simp, rfl⟩
      · exact same _ h
    · exact same _ h
  | evStop =>
    replace h : execEvStop s = .next t := h
    unfold execEvStop at h
    rcases event_next h with ⟨_, rfl⟩ | ⟨_, _, rfl⟩ | ⟨_, _, h⟩ | ⟨_, _, h⟩
    · exact same _ rfl
    · exact held _
    · split at h
      · cases h; exact ⟨[], (complete_frame s).toEvent, by simp, rfl⟩
      · exact same _ h
    · split at h
      · cases h; exact delivered
      · cases h; exact ended
      all_goals exact same _ h
  | evAddrMatch d =>
    replace h : execEvAddrMatch d s = .next t := h
    unfold execEvAddrMatch at h
    split at h
    · exact same _ h
    · exact same _ h
    · split at h
      · cases h; exact held _
      split at h
      · cases h; exact held _
      split at h
      · exact same _ h
      split at h
      · unfold slaveTransmitEntry at h
        dsimp only at h
        split at h
        · cases h; exact ⟨[.cbRequest], rfl, by simp, rfl⟩
        · obtain ⟨b, f⟩ := slaveSend_frame h
          exact ⟨[.send b], by rw [EventFrame, f], by simp, rfl⟩
      · cases h
        exact ⟨[], by simp only [EventFrame, List.append_nil]; rfl, by simp, rfl⟩
  | evTimeout =>
    replace h : execEvTimeout s = .next t := h
    unfold execEvTimeout at h
    split at h
    · exact same _ h
    · split at h
      · cases h; exact ⟨[.release], (abort_frame s _).toEvent, by simp, rfl⟩
      · exact same _ h
    · exact same _ h
  | _ => simp [isEvent] at hi

/-- An action taken by its receiver changes the receiver's registers only. -/
theorem action_frame (a : Act) (s : State) :
    ∃ t, exec a.toInstr s = .next t ∧ t = { s with busUnit := t.busUnit, notices := t.notices } := by
  cases a <;> exact ⟨_, rfl, rfl⟩

/-- A command that reaches a next state either was refused, with nothing changed, or passed the gate. -/
theorem command_cases {i : Instr} {c : Command} {s t : State} (hc : commandOf? i = some c) (h : exec i s = .next t) :
    (∃ r, gate c s = some r ∧ t = s.refuse r) ∨ gate c s = none := by
  cases i <;> simp only [commandOf?, Option.some.injEq, reduceCtorEq] at hc <;> subst hc <;>
    simp only [exec, execBeginMaster, execBeginSlave, execEndUnit, execSetClock, execGetRate, execSetPins,
      execBeginTx, execWrite, execEndTx, execReqFrom, execGetResult, execAvailable, execRead, execPeek,
      execOnReceive, execOnRequest, execCbReturn] at h <;>
    exact (command_next h).imp_right And.left

end Sys2Proof.Machine
end

