-- ==== Sys2Proof/Laws/Liveness.lean ====
section
/-! SUPPORT. A master transaction in flight stays in flight or is complete after a step, and under weak fairness of the
wait bound it ends (41_master_sequencer.md R184 item 5, 60_exceptions.md R285). -/

namespace Sys2Proof.Machine

/-- The transaction is over: `done = 1` and Idle (41 R163). -/
abbrev State.over (s : State) : Prop := s.done = true ∧ s.phase = .idle

theorem forceStop_ends (s : State) (h : s.mode = .master) : s.forceStop.inFlight ∨ s.forceStop.over := by
  unfold State.forceStop
  split
  · exact .inl ⟨h, rfl⟩
  · exact .inr ⟨rfl, rfl⟩

theorem finishOk_ends (s : State) (h : s.mode = .master) : s.finishOk.inFlight ∨ s.finishOk.over := by
  unfold State.finishOk
  split
  · exact forceStop_ends _ h
  · exact .inr ⟨rfl, rfl⟩

theorem abort_ends (s : State) (e : Status) : (s.abort e).over := by
  unfold State.abort
  split <;> exact ⟨rfl, rfl⟩

theorem writeNext_ends {s t : State} (hm : s.mode = .master) (h : writeNext s = .next t) : t.inFlight ∨ t.over := by
  unfold writeNext at h
  split at h
  · split at h
    · cases h; exact .inl ⟨hm, rfl⟩
    · cases h
  · cases h; exact finishOk_ends s hm

theorem readNext_ends (s : State) (hm : s.mode = .master) : (readNext s).inFlight ∨ (readNext s).over := by
  unfold readNext
  split
  · exact finishOk_ends s hm
  · exact .inl ⟨hm, rfl⟩

theorem byteArrived_ends (s : State) (d : Byte) (hm : s.mode = .master) :
    (byteArrived d s).inFlight ∨ (byteArrived d s).over := by
  apply readNext_ends
  rw [State.pushReceived_eq]
  exact hm

/-- An event leaves a master transaction in flight, or complete. -/
theorem event_ends {i : Instr} {s t : State} (hs : s.inFlight) (hi : isEvent i = true) (h : exec i s = .next t) :
    t.inFlight ∨ t.over := by
  have hm : s.mode = .master := hs.1
  cases i with
  | evTimeout =>
    simp only [exec, execEvTimeout, hm, hs.2, if_true, Host.Outcome.next.injEq] at h
    exact h ▸ .inr (abort_ends s _)
  | evAddrMatch d =>
    simp only [exec, execEvAddrMatch, hm, Host.Outcome.next.injEq] at h
    exact h ▸ .inl hs
  | evStart =>
    simp only [exec, execEvStart] at h
    rcases event_next h with ⟨_, rfl⟩ | ⟨_, _, rfl⟩ | ⟨_, _, h⟩ | ⟨hm', _⟩
    · exact .inl hs
    · exact .inl hs
    · split at h
      · unfold sendAddress at h
        split at h
        · cases h; exact .inl ⟨hm, rfl⟩
        · cases h
      · cases h; exact .inl hs
    · simp [hm] at hm'
  | evByte ack d =>
    simp only [exec, execEvByte] at h
    rcases event_next h with ⟨_, rfl⟩ | ⟨_, _, rfl⟩ | ⟨_, _, h⟩ | ⟨hm', _⟩
    · exact .inl hs
    · exact .inl hs
    · split at h
      · unfold addressAnswered at h
        split at h
        · split at h
          · exact writeNext_ends hm h
          · cases h; exact readNext_ends _ hm
          · cases h; exact .inl hs
          · cases h; exact .inl hs
        · cases h; exact forceStop_ends _ hm
      · unfold byteAnswered at h
        split at h
        · exact writeNext_ends hm h
        · cases h; exact forceStop_ends _ hm
      · cases h; exact byteArrived_ends s d hm
      all_goals cases h; exact .inl hs
    · simp [hm] at hm'
  | evArbLost =>
    simp only [exec, execEvArbLost] at h
    rcases event_next h with ⟨_, rfl⟩ | ⟨_, _, rfl⟩ | ⟨_, _, h⟩ | ⟨hm', _⟩
    · exact .inl hs
    · exact .inl hs
    · split at h
      · cases h; exact .inr (abort_ends s _)
      · cases h; exact .inl hs
    · simp [hm] at hm'
  | evStop =>
    simp only [exec, execEvStop] at h
    rcases event_next h with ⟨_, rfl⟩ | ⟨_, _, rfl⟩ | ⟨_, _, h⟩ | ⟨hm', _⟩
    · exact .inl hs
    · exact .inl hs
    · split at h
      · cases h; exact .inr ⟨rfl, rfl⟩
      · cases h; exact .inl hs
    · simp [hm] at hm'
  | _ => simp [isEvent] at hi

/-- In flight the gate accepts no command that issues, begins, ends or configures (43 R220). -/
theorem gate_inFlight {c : Command} {s : State} (hs : s.inFlight) (h : gate c s = none) :
    c = .getRate ∨ c = .write ∨ c = .getResult ∨ c = .available ∨ c = .read ∨ c = .peek ∨ c = .onReceive ∨
      c = .onRequest ∨ c = .cbReturn := by
  have hm : s.mode = .master := hs.1
  have hp : s.phase ≠ .idle := fun e => by simpa [e, Phase.masterInFlight] using hs.2
  by_cases hc : s.cbActive = .noCallback <;> cases c <;>
    simp [gate, hm, hp, hc, acceptedInCallback, acceptedInFlight, rxReaders, masterCommands] at h ⊢

/-- A command leaves a master transaction in flight. -/
theorem command_inFlight {i : Instr} {s t : State} (hs : s.inFlight) (hi : isCommand i = true)
    (h : exec i s = .next t) : t.inFlight := by
  have kept : ∀ {u : State}, u.mode = s.mode → u.phase = s.phase → u.inFlight := fun a b => ⟨a.trans hs.1, b ▸ hs.2⟩
  have refused : ∀ {c : Command}, ¬(c = .getRate ∨ c = .write ∨ c = .getResult ∨ c = .available ∨ c = .read ∨
      c = .peek ∨ c = .onReceive ∨ c = .onRequest ∨ c = .cbReturn) → gate c s = none → t.inFlight :=
    fun hc hg => absurd (gate_inFlight hs hg) hc
  cases i <;> simp only [isCommand, commandOf?, Option.isSome_none, Bool.false_eq_true] at hi <;>
    simp only [exec, execBeginMaster, execBeginSlave, execEndUnit, execSetClock, execGetRate, execSetPins,
      execBeginTx, execWrite, execEndTx, execReqFrom, execGetResult, execAvailable, execRead, execPeek,
      execOnReceive, execOnRequest, execCbReturn] at h <;>
    (rcases command_next h with ⟨_, _, e⟩ | ⟨hg, hb⟩
     · rw [e]; exact hs)
  case beginMaster | beginSlave | endUnit | setClock | setPins | beginTx | endTx | reqFrom => exact refused (by simp) hg
  case getRate | getResult | available | onReceive | onRequest => cases hb; exact kept rfl rfl
  case write d =>
    split at hb <;> cases hb
    · by_cases hr : s.txLen < s.cfg.txCapacity
      · rw [State.stageByte_room hr]; exact kept rfl rfl
      · rw [State.stageByte_full hr]; exact kept rfl rfl
    · exact kept rfl rfl
  case read =>
    rcases s.takeByte_cases with ⟨b, _, _, e⟩ | ⟨_, e⟩ | ⟨_, _, e⟩ <;> rw [e] at hb <;> cases hb <;> exact kept rfl rfl
  case peek => split at hb <;> cases hb; exact kept rfl rfl
  case cbReturn =>
    obtain ⟨u, hu, rfl⟩ := mapNext_next hb
    split at hu
    · obtain ⟨b, e⟩ := slaveSend_frame hu
      rw [e]; exact kept rfl rfl
    · cases hu; exact kept rfl rfl

/-- Every instruction leaves a master transaction in flight, or complete. -/
theorem exec_ends {i : Instr} {s t : State} (hs : s.inFlight) (h : exec i s = .next t) : t.inFlight ∨ t.over := by
  by_cases he : isEvent i = true
  · exact event_ends hs he h
  by_cases hc : isCommand i = true
  · exact .inl (command_inFlight hs hc h)
  · have ha : ∃ a : Act, i = a.toInstr := by
      cases i <;> simp [isEvent, isCommand, commandOf?] at he hc
      exacts [⟨.start, rfl⟩, ⟨.restart, rfl⟩, ⟨.send _, rfl⟩, ⟨.recv _, rfl⟩, ⟨.stop, rfl⟩, ⟨.release, rfl⟩,
        ⟨.cbReceive _, rfl⟩, ⟨.cbRequest, rfl⟩, ⟨.setDiv _, rfl⟩, ⟨.setSaddr _, rfl⟩, ⟨.enable, rfl⟩, ⟨.disable, rfl⟩]
    obtain ⟨a, rfl⟩ := ha
    obtain ⟨u, hu, e⟩ := action_frame a s
    cases hu.symm.trans h
    exact .inl (e ▸ hs)

/-- A step leaves a master transaction in flight, or complete: no step abandons it (41 R184). -/
theorem step_ends {s t : State} (hs : s.inFlight) (h : step s = .next t) : t.inFlight ∨ t.over := by
  have hf : (fetch s).2.inFlight := ⟨(fetch_mode s).trans hs.1, (fetch_phase s).symm ▸ hs.2⟩
  rcases step_cases h with rfl | rfl | ⟨i, _, h⟩
  · exact .inl hf
  · exact .inl hf
  · exact exec_ends hf h

/-- The wait bound's turn ends a transaction in flight (60 R285). -/
theorem step_waitBound {s t : State} (hs : s.inFlight) (hw : s.agenda.head? = some .waitBound) (h : step s = .next t) :
    t.over := by
  cases ha : s.agenda with
  | nil => simp [ha] at hw
  | cons u rest =>
    simp only [ha, List.head?_cons, Option.some.injEq] at hw
    subst hw
    simp only [step, fetch, ha, takeTurn, exec, execEvTimeout, hs.1, hs.2, if_true, Host.Outcome.next.injEq] at h
    exact h ▸ abort_ends _ _

/-- Under weak fairness of the wait bound, every master transaction of a run ends (41 R184 item 5). -/
theorem transactionsEnd_of_fair {r : Nat → State} (hr : Run r) (hw : WaitBoundFair r) : TransactionsEnd r := by
  have supplied : ∀ {s t : State}, Supplied s t → t.mode = s.mode ∧ t.phase = s.phase ∧ t.done = s.done := by
    rintro s t ⟨_, _, _, rfl⟩; exact ⟨rfl, rfl, rfl⟩
  intro n hn
  by_contra hno
  have all : ∀ m, n ≤ m → (r m).inFlight := by
    intro m hm
    induction m, hm using Nat.le_induction with
    | base => exact hn
    | succ m hm ih =>
      obtain ⟨t, ht, hs⟩ := hr m
      obtain ⟨e1, e2, e3⟩ := supplied hs
      rcases step_ends ih ht with h | h
      · exact ⟨e1.trans h.1, e2.symm ▸ h.2⟩
      · exact absurd ⟨m + 1, by omega, e3.trans h.1, e2.trans h.2⟩ hno
  obtain ⟨m, hm, hh⟩ := hw n all
  obtain ⟨t, ht, hs⟩ := hr m
  obtain ⟨-, e2, e3⟩ := supplied hs
  have h := step_waitBound (all m hm) hh ht
  exact hno ⟨m + 1, by omega, e3.trans h.1, e2.trans h.2⟩

end Sys2Proof.Machine
end

