-- ==== Sys2Proof/Laws/PerInstr.lean ====
section
/-! SUPPORT. The family RoundTrip: for each constructor, decoding the encoded instruction gives it back
(30_encoding.md R91, R93, R94, R101 to R103, R109). -/

namespace Sys2Proof.Laws.RoundTrip

/-- Decoding what the encoder writes gives the instruction back. -/
def Statement (i : Instr) : Prop := decode (encode i) = .instr i

theorem beginMaster : Statement .beginMaster := rfl

theorem beginSlave (a : BusAddr) : Statement (.beginSlave a) := by
  simp [Statement, encode, cmdWord, decode, decodeCmd, opcode_cmd, operand_cmd]

theorem endUnit : Statement .endUnit := rfl

theorem setClock (f : BitVec 24) : Statement (.setClock f) := by
  simp [Statement, encode, cmdWord, decode, decodeCmd, opcode_cmd, operand_cmd]

theorem getRate : Statement .getRate := rfl

theorem setPins (scl : Byte) (sda : Byte) : Statement (.setPins scl sda) := by
  simp [Statement, encode, cmdWord, decode, decodeCmd, opcode_cmd, operand_cmd]

theorem beginTx (a : BusAddr) : Statement (.beginTx a) := by
  simp [Statement, encode, cmdWord, decode, decodeCmd, opcode_cmd, operand_cmd]

theorem write (d : Byte) : Statement (.write d) := by
  simp [Statement, encode, cmdWord, decode, decodeCmd, opcode_cmd, operand_cmd]

theorem endTx (st : Bool) : Statement (.endTx st) := by
  simp [Statement, encode, cmdWord, decode, decodeCmd, opcode_cmd, operand_cmd, operand_cmd_bit]

theorem reqFrom (a : BusAddr) (st : Bool) (q : Byte) : Statement (.reqFrom a st q) := by
  simp [Statement, encode, cmdWord, decode, decodeCmd, opcode_cmd, operand_cmd, operand_cmd_bit]

theorem getResult : Statement .getResult := rfl

theorem available : Statement .available := rfl

theorem read : Statement .read := rfl

theorem peek : Statement .peek := rfl

theorem onReceive (h : Handle) : Statement (.onReceive h) := by
  simp [Statement, encode, cmdWord, decode, decodeCmd, opcode_cmd, operand_cmd]

theorem onRequest (h : Handle) : Statement (.onRequest h) := by
  simp [Statement, encode, cmdWord, decode, decodeCmd, opcode_cmd, operand_cmd]

theorem cbReturn : Statement .cbReturn := rfl

theorem evStart : Statement .evStart := rfl

theorem evByte (ack : Bool) (d : Byte) : Statement (.evByte ack d) := by
  simp [Statement, encode, evtWord, decode, decodeEvt, code_short, operand_short, operand_short_bit]

theorem evArbLost : Statement .evArbLost := rfl

theorem evStop : Statement .evStop := rfl

theorem evAddrMatch (d : Byte) : Statement (.evAddrMatch d) := by
  simp [Statement, encode, evtWord, decode, decodeEvt, code_short, operand_short]

theorem evTimeout : Statement .evTimeout := rfl

theorem start : Statement .start := rfl

theorem restart : Statement .restart := rfl

theorem send (d : Byte) : Statement (.send d) := by
  simp [Statement, encode, actWord, decode, decodeAct, code_short, operand_short]

theorem recv (ack : Bool) : Statement (.recv ack) := by
  simp [Statement, encode, actWord, decode, decodeAct, code_short, operand_short, operand_short_bit]

theorem stop : Statement .stop := rfl

theorem release : Statement .release := rfl

theorem cbReceive (n : Byte) : Statement (.cbReceive n) := by
  simp [Statement, encode, actWord, decode, decodeAct, code_short, operand_short]

theorem cbRequest : Statement .cbRequest := rfl

theorem setDiv (v : Byte) : Statement (.setDiv v) := by
  simp [Statement, encode, actWord, decode, decodeAct, code_short, operand_short]

theorem setSaddr (a : BusAddr) : Statement (.setSaddr a) := by
  simp [Statement, encode, actWord, decode, decodeAct, code_short, operand_short]

theorem enable : Statement .enable := rfl

theorem disable : Statement .disable := rfl

end Sys2Proof.Laws.RoundTrip
end

