-- ==== Sys2Proof/Tests/Slice0.lean ====
section
/-! SUPPORT. Tests: the well-formedness smoke, words written out from the spec's encodings, the vectors of
95_test_vectors.md as single steps, and for each statement with hypotheses a witness that meets them. -/

namespace Sys2Proof.Tests

open Sys2Proof.Machine

/-- The test vectors' configuration `K0` with their fixture table (95 sections 1 and 2). -/
def k0 : Config where
  txCapacity := 33
  rxCapacity := 33
  quantityBits := 8
  rateClasses := [⟨.standard, 100000⟩, ⟨.fast, 400000⟩]
  dividerTable := [⟨8000000, [0x50#8, 0x14#8]⟩, ⟨16000000, [0xA0#8, 0x28#8]⟩, ⟨24000000, [0xF0#8, 0x3C#8]⟩]
  busClockHz := 16000000
  divBits := 8
  stopDetect := true
  timeout := 0
  slaveTxFill := some 0xFF#8
  overflowPolicy := .silent
  statusCodes := StatusCodes.ofSpec
  noData := 0xFFFFFF#24

/-- The next state, if there is one. -/
def nextOf : Host.Outcome State Fault Refusal → Option State
  | .next t => some t
  | .fault _ => none
  | .refused _ => none

/-- One step of one instruction, seen through `f`. -/
def after {α : Type} (f : State → α) (i : Instr) (s : State) : Option α := (nextOf (exec i s)).map f

/-- The last response as a word. -/
def lastWord (s : State) : Option RspWord := s.responses.getLast?.map responseWord

/-- The response to one command. -/
def answer (i : Instr) (s : State) : Option (Option RspWord) := after lastWord i s

/-- `P0`: just powered on, with values in place of the unspecified ones. -/
def p0 : State :=
  { State.afterPowerOn k0 with
    sendStop := false, slaveAddr := 0#7, clockSetting := 0#8, pinScl := 0#8, pinSda := 0#8
    busUnit := ⟨false, 0#8, none, none⟩ }

/-- `M0` without its trace: a master, idle. -/
def m0 : State := { p0 with mode := .master, clockSetting := 0xA0#8 }

/-- `S0` without its trace: a slave at 0x42, idle. -/
def s0 : State := { p0 with mode := .slave, slaveAddr := 0x42#7, clockSetting := 0xA0#8 }

/-- A master that has staged an address and one byte. -/
def staged : State := { m0 with tx := [(0, 0xA0#8), (1, 0x10#8)], txLen := 2, transmitting := true }

/-- A master in flight in phase `p` of transaction `k`, `cur` bytes of two sent. -/
def flight (k : Txn) (p : Phase) (cur : Nat) : State :=
  { m0 with txn := k, phase := p, tx := [(0, 0xA0#8), (1, 0x10#8)], txLen := 2, txCur := cur, sendStop := true }

/-- A master reading with `n` bytes still to come. -/
def reading (n : Nat) : State := { flight .requesting (.dataPhase .read) 1 with txLen := 1, rxRemaining := n }

/-- A slave addressed for direction `d`. -/
def addressed (d : SlaveDir) : State :=
  { s0 with txn := .slaveAddressed, phase := .slaveAddressed d, tx := [(0, 0x85#8)], txLen := 1, txCur := 1 }

/-- A slave inside its request handler. -/
def inRequest : State := { addressed .transmit with cbActive := .request, cbRequest := some 2#24 }

/-- A slave inside its receive handler. -/
def inReceive : State := { s0 with cbActive := .receive, cbReceive := some 1#24 }

/-- A master with two received bytes, none read. -/
def received : State := { m0 with rx := [(0, 0x37#8), (1, 0x38#8)], rxLen := 2 }

/-! ### Well-formedness smoke: one ill-formed term for each check, refused (00 R4) -/

theorem test_wf_k0 : k0.wf = true := by decide
theorem test_illformed_txCapacity : ({ k0 with txCapacity := 1 } : Config).wf = false := by decide
theorem test_illformed_txCapacity_high : ({ k0 with txCapacity := 257 } : Config).wf = false := by decide
theorem test_illformed_rxCapacity : ({ k0 with rxCapacity := 0 } : Config).wf = false := by decide
theorem test_illformed_rxCapacity_high : ({ k0 with rxCapacity := 256 } : Config).wf = false := by decide
theorem test_illformed_quantityBits : ({ k0 with quantityBits := 7 } : Config).wf = false := by decide
theorem test_illformed_noClass :
    ({ k0 with rateClasses := [], dividerTable := [⟨8000000, []⟩] } : Config).rateClassesNonempty = false := by decide
theorem test_illformed_ratesFall :
    ({ k0 with rateClasses := [⟨.standard, 400000⟩, ⟨.fast, 400000⟩] } : Config).wf = false := by decide
theorem test_illformed_noFast :
    ({ k0 with rateClasses := [⟨.standard, 100000⟩, ⟨.other 0, 400000⟩] } : Config).wf = false := by decide
theorem test_illformed_divBits : ({ k0 with divBits := 0 } : Config).wf = false := by decide
theorem test_illformed_divBits_high : ({ k0 with divBits := 9 } : Config).wf = false := by decide
theorem test_illformed_overflowPolicy : ({ k0 with overflowPolicy := .other 1 } : Config).wf = false := by decide
theorem test_illformed_noData : ({ k0 with noData := 0xFF#24 } : Config).wf = false := by decide
theorem test_illformed_emptyTable : ({ k0 with dividerTable := [] } : Config).wf = false := by decide
theorem test_illformed_sameClock :
    ({ k0 with dividerTable := [⟨8, [1#8, 2#8]⟩, ⟨8, [3#8, 4#8]⟩] } : Config).wf = false := by decide
theorem test_illformed_sameSetting : ({ k0 with dividerTable := [⟨8, [1#8, 1#8]⟩] } : Config).wf = false := by decide
theorem test_illformed_missingSetting : ({ k0 with dividerTable := [⟨8, [1#8]⟩] } : Config).wf = false := by decide
theorem test_illformed_wideSetting :
    ({ k0 with divBits := 4, dividerTable := [⟨8, [1#8, 16#8]⟩] } : Config).wf = false := by decide
theorem test_illformed_count : (Instr.cbReceive 34#8).wf k0 = false ∧ (Instr.cbReceive 33#8).wf k0 = true := by decide
theorem test_illformed_setting :
    (Instr.setDiv 16#8).wf { k0 with divBits := 4 } = false ∧ (Instr.setDiv 15#8).wf { k0 with divBits := 4 } = true := by
  decide

/-! ### Decoding: every constructor from a word written out from the spec (30 R101 to R103, R110, 95 section 10) -/

theorem test_decode_lifecycle :
    decode (.cmd 0x01000000#32) = .instr .beginMaster ∧
    decode (.cmd 0x02000042#32) = .instr (.beginSlave 0x42#7) ∧
    decode (.cmd 0x03000000#32) = .instr .endUnit ∧
    decode (.cmd 0x06001312#32) = .instr (.setPins 0x13#8 0x12#8) ∧
    decode (.cmd 0x20ABCDEF#32) = .instr (.onReceive 0xABCDEF#24) ∧
    decode (.cmd 0x21000002#32) = .instr (.onRequest 2#24) ∧
    decode (.cmd 0x22000000#32) = .instr .cbReturn := by decide

theorem test_decode_clock :
    decode (.cmd 0x04061A80#32) = .instr (.setClock 400000#24) ∧
    decode (.cmd 0x04FFFFFF#32) = .instr (.setClock 16777215#24) ∧
    decode (.cmd 0x05000000#32) = .instr .getRate := by decide

theorem test_decode_transactions :
    decode (.cmd 0x10000050#32) = .instr (.beginTx 0x50#7) ∧
    decode (.cmd 0x11000010#32) = .instr (.write 0x10#8) ∧
    decode (.cmd 0x12000001#32) = .instr (.endTx true) ∧
    decode (.cmd 0x12000000#32) = .instr (.endTx false) ∧
    decode (.cmd 0x130004D0#32) = .instr (.reqFrom 0x50#7 true 4#8) ∧
    decode (.cmd 0x13000250#32) = .instr (.reqFrom 0x50#7 false 2#8) ∧
    decode (.cmd 0x1300FF7F#32) = .instr (.reqFrom 0x7F#7 false 255#8) ∧
    decode (.cmd 0x14000000#32) = .instr .getResult ∧
    decode (.cmd 0x18000000#32) = .instr .available ∧
    decode (.cmd 0x19000000#32) = .instr .read ∧
    decode (.cmd 0x1A000000#32) = .instr .peek := by decide

theorem test_decode_events :
    decode (.evt 0x1000#16) = .instr .evStart ∧
    decode (.evt 0x2137#16) = .instr (.evByte true 0x37#8) ∧
    decode (.evt 0x2000#16) = .instr (.evByte false 0#8) ∧
    decode (.evt 0x3000#16) = .instr .evArbLost ∧
    decode (.evt 0x4000#16) = .instr .evStop ∧
    decode (.evt 0x5085#16) = .instr (.evAddrMatch 0x85#8) ∧
    decode (.evt 0x6000#16) = .instr .evTimeout := by decide

theorem test_decode_actions :
    decode (.act 0x1000#16) = .instr .start ∧
    decode (.act 0x2000#16) = .instr .restart ∧
    decode (.act 0x30A0#16) = .instr (.send 0xA0#8) ∧
    decode (.act 0x4100#16) = .instr (.recv true) ∧
    decode (.act 0x4000#16) = .instr (.recv false) ∧
    decode (.act 0x5000#16) = .instr .stop ∧
    decode (.act 0x6000#16) = .instr .release ∧
    decode (.act 0x8003#16) = .instr (.cbReceive 3#8) ∧
    decode (.act 0x9000#16) = .instr .cbRequest ∧
    decode (.act 0xA028#16) = .instr (.setDiv 0x28#8) ∧
    decode (.act 0xB042#16) = .instr (.setSaddr 0x42#7) ∧
    decode (.act 0xC000#16) = .instr .enable ∧
    decode (.act 0xD000#16) = .instr .disable := by decide

/-- The illegal command words of 95 section 8, the ignored event words of V11, action words with a reserved bit. -/
theorem test_decode_rejects :
    ([0x00000000#32, 0x07000000#32, 0x01000001#32, 0x10000080#32, 0x11000100#32, 0x12000002#32, 0x13010000#32,
      0xFFFFFFFF#32].all fun w => decide (decode (.cmd w) = .rejected .illegalCommand)) = true ∧
    ([0x0000#16, 0x7000#16, 0x1001#16, 0x2200#16, 0x5100#16].all fun w =>
      decide (decode (.evt w) = .rejected .illegalEvent)) = true ∧
    ([0x4101#16, 0x4200#16, 0x7000#16, 0xB080#16, 0xE000#16].all fun w =>
      decide (decode (.act w) = .rejected .illegalAction)) = true := by decide

/-- The responses written out in 30 R110 and 95 section 8. -/
theorem test_response_words :
    responseWord (.refused .busy) = 0x83000000#32 ∧ responseWord (.refused .noStopDetect) = 0x8A000000#32 ∧
    responseWord (.refused .notBegun) = 0x81000000#32 ∧ responseWord (.value (readValue Config.ofSpec.noData none)) = 0x00FFFFFF#32 ∧
    responseWord (.value (resultValue { m0 with done := true, status := .addressNak })) = 0x00010200#32 ∧
    responseWord (.value (resultValue { m0 with done := true, rxLen := 4 })) = 0x00010004#32 := by decide

/-! ### The clock divider (95 section 4) -/

theorem test_nearestClock :
    [16000000, 9000000, 12000000, 20000000, 0, 100000000].map (nearestClock k0) =
      [16000000, 8000000, 16000000, 24000000, 8000000, 24000000] := by decide

theorem test_resolve :
    [(0, 8000000), (1, 8000000), (0, 24000000), (1, 12000000), (0, 9000000)].map (fun p => resolve k0 p.1 p.2) =
      [0x50#8, 0x14#8, 0xF0#8, 0x28#8, 0x50#8] := by decide

theorem test_classify :
    [(0x50#8, 8000000), (0x28#8, 16000000), (0x99#8, 16000000), (0x50#8, 16000000), (0xA0#8, 12000000)].map
      (fun p => classify k0 p.1 p.2) = [0, 1, 1, 1, 0] := by decide

theorem test_rateClassOf :
    [0, 50000, 100000, 399999, 400000, 16777215].map (rateClassOf k0) = [0, 0, 0, 0, 1, 1] := by decide

theorem test_setClock :
    after (fun t => (t.clockSetting, t.out)) (.setClock 400000#24) m0 = some (0x28#8, [Act.setDiv 0x28#8]) ∧
    answer (.setClock 400000#24) m0 = some (some 0#32) := by decide

theorem test_getRate : answer .getRate { m0 with clockSetting := 0x28#8 } = some (some 1#32) := by decide

/-! ### The buffer primitives (95 section 5) -/

theorem test_stageAddress :
    (m0.stageAddress 0x50#7 false).tx = [(0, 0xA0#8)] ∧ (m0.stageAddress 0x7F#7 true).tx = [(0, 0xFF#8)] := by decide

theorem test_stageBytes :
    ({ m0 with txLen := 30 }.stageBytes [1#8, 2#8, 3#8, 4#8, 5#8]).2 = 3 ∧
    ({ m0 with txLen := 30 }.stageBytes [1#8, 2#8, 3#8, 4#8, 5#8]).1.tx = [(30, 1#8), (31, 2#8), (32, 3#8)] := by
  decide

theorem test_pushReceived_full : ({ m0 with rxLen := 33 }.pushReceived 0x11#8).rxLen = 33 := by decide

/-- A write goes where its index belongs, above a lower one, in front of a higher one, over an equal one. -/
theorem test_memory_canonical :
    Memory.write [(1, 7#8)] 0 9#8 = [(0, 9#8), (1, 7#8)] ∧ Memory.write [(1, 7#8)] 2 9#8 = [(1, 7#8), (2, 9#8)] ∧
    Memory.write [(1, 7#8)] 1 9#8 = [(1, 9#8)] ∧ Memory.wf [(1, 7#8), (1, 8#8)] = false := by decide

/-! ### Lifecycle and callbacks (95 section 9) -/

theorem test_beginMaster :
    after (fun t => (t.mode, t.clockSetting, t.out)) .beginMaster p0 =
      some (.master, 0xA0#8, [Act.enable, Act.setDiv 0xA0#8]) ∧
    answer .beginMaster m0 = some (some 0x82000000#32) := by decide

theorem test_beginSlave :
    after (fun t => (t.mode, t.slaveAddr, t.out)) (.beginSlave 0x42#7) p0 =
      some (.slave, 0x42#7, [Act.enable, Act.setDiv 0xA0#8, Act.setSaddr 0x42#7]) ∧
    answer (.beginSlave 0x42#7) { p0 with cfg := { k0 with stopDetect := false } } = some (some 0x8A000000#32) := by
  decide

theorem test_endUnit :
    after (fun t => (t.mode, t.busHeld, t.out)) .endUnit { m0 with busHeld := true } =
      some (.off, false, [Act.release, Act.disable]) ∧
    after (fun t => (t.mode, t.out)) .endUnit { staged with txCur := 0 } = some (.off, [Act.disable]) := by decide

theorem test_endUnit_off : after State.out .endUnit p0 = some [] ∧ answer .endUnit p0 = some (some 0#32) := by decide

theorem test_setPins :
    after (fun t => (t.pinScl, t.pinSda)) (.setPins 0x13#8 0x12#8) p0 = some (0x13#8, 0x12#8) ∧
    answer (.setPins 1#8 2#8) (flight .transmitting .addressPhase 1) = some (some 0x83000000#32) := by decide

theorem test_onReceive : after State.cbReceive (.onReceive 0xABCDEF#24) inReceive = some (some 0xABCDEF#24) := by decide

theorem test_onRequest : after State.cbRequest (.onRequest 0#24) p0 = some (some 0#24) := by decide

theorem test_cbReturn :
    after (fun t => (t.cbActive, t.txCur, t.out)) .cbReturn
      { inRequest with tx := [(0, 0x85#8), (1, 0xDE#8)], txLen := 2 } =
      some (.noCallback, 2, [Act.send 0xDE#8]) ∧
    after (fun t => (t.cbActive, t.out)) .cbReturn inReceive = some (.noCallback, []) := by decide

theorem test_cbReturn_fill :
    after State.out .cbReturn inRequest = some [Act.send 0xFF#8] ∧
    answer .cbReturn m0 = some (some 0x88000000#32) := by decide

/-! ### Transactions (95 sections 8 and 11) -/

theorem test_beginTx :
    after (fun t => (t.tx, t.txLen, t.transmitting)) (.beginTx 0x50#7) m0 = some ([(0, 0xA0#8)], 1, true) ∧
    after (fun t => (t.tx, t.txLen)) (.beginTx 0x51#7) staged = some (staged.tx, 2) := by decide

theorem test_write :
    after (fun t => (t.tx, t.txLen)) (.write 0x7E#8) { staged with txLen := 32 } =
      some ([(0, 0xA0#8), (1, 0x10#8), (32, 0x7E#8)], 33) ∧
    answer (.write 0x7E#8) { staged with txLen := 33 } = some (some 0#32) := by decide

theorem test_write_answers :
    answer (.write 0x10#8) staged = some (some 1#32) ∧ answer (.write 1#8) inRequest = some (some 1#32) ∧
    answer (.write 1#8) s0 = some (some 0#32) := by decide

theorem test_endTx :
    after (fun t => (t.phase, t.txn, t.transmitting, t.done, t.sendStop)) (.endTx true) { staged with done := true } =
      some (.startPending, .transmitting, false, false, true) ∧
    after State.out (.endTx false) { staged with busHeld := true } = some [Act.restart] := by decide

theorem test_reqFrom :
    after (fun t => (t.tx, t.txLen, t.rxLen, t.rxRemaining)) (.reqFrom 0x50#7 true 4#8) received =
      some ([(0, 0xA1#8)], 1, 0, 4) ∧
    answer (.reqFrom 0x51#7 true 1#8) staged = some (some 0x87000000#32) := by decide

theorem test_getResult :
    answer .getResult { m0 with done := true, status := .timeout } = some (some 0x00010500#32) ∧
    answer .getResult { reading 2 with rxLen := 1 } = some (some 0x00000001#32) := by decide

theorem test_available :
    answer .available received = some (some 2#32) ∧ answer .available (reading 2) = some (some 0x83000000#32) := by
  decide

theorem test_read :
    answer .read { received with rxCur := 1 } = some (some 0x38#32) ∧
    after State.rxCur .read { received with rxCur := 1 } = some 2 := by decide

theorem test_read_noData :
    answer .read { received with rxCur := 2 } = some (some 0x00FFFFFF#32) ∧
    after State.rxCur .read { received with rxCur := 2 } = some 2 := by decide

theorem test_peek : answer .peek received = some (some 0x37#32) ∧ after State.rxCur .peek received = some 0 := by decide

/-- The refusals of 95 section 8 that turn on the order of the gate's lines. -/
theorem test_gate_order :
    answer (.beginTx 0x50#7) p0 = some (some 0x81000000#32) ∧
    answer (.beginTx 0x50#7) inReceive = some (some 0x84000000#32) ∧
    answer .beginMaster inReceive = some (some 0x82000000#32) ∧
    answer (.endTx true) s0 = some (some 0x85000000#32) ∧
    answer (.endTx true) m0 = some (some 0x86000000#32) := by decide

/-! ### Events as master (95 section 6) -/

theorem test_evStart :
    after (fun t => (t.phase, t.txCur, t.out)) .evStart (flight .transmitting .startPending 0) =
      some (.addressPhase, 1, [Act.send 0xA0#8]) ∧
    after State.phase .evStart m0 = some .idle := by decide

/-- Acknowledge, NAK on the last byte, a byte kept, a byte dropped, no stop wanted, no byte wanted, no stop detected. -/
theorem test_evByte_master :
    after (fun t => (t.phase, t.txCur, t.out)) (.evByte true 0#8) (flight .transmitting .addressPhase 1) =
      some (.dataPhase .write, 2, [Act.send 0x10#8]) ∧
    after (fun t => (t.phase, t.status, t.out)) (.evByte false 0#8)
      { flight .transmitting (.dataPhase .write) 2 with sendStop := false } =
      some (.stopPending, .dataNak, [Act.stop]) ∧
    after (fun t => (t.rx, t.rxLen, t.rxRemaining, t.out)) (.evByte true 0x37#8) (reading 2) =
      some ([(0, 0x37#8)], 1, 1, [Act.recv false]) ∧
    after (fun t => (t.rxLen, t.phase, t.out)) (.evByte false 0x5A#8) { reading 1 with rxLen := 33 } =
      some (33, .stopPending, [Act.stop]) ∧
    after (fun t => (t.phase, t.busHeld, t.done, t.out)) (.evByte true 0#8)
      { flight .transmitting (.dataPhase .write) 2 with sendStop := false } = some (.idle, true, true, []) ∧
    after (fun t => (t.phase, t.status, t.out)) (.evByte true 0#8)
      { flight .requesting .addressPhase 1 with rxRemaining := 0 } = some (.stopPending, .success, [Act.stop]) ∧
    after (fun t => (t.phase, t.done, t.out)) (.evByte true 0#8)
      { flight .transmitting (.dataPhase .write) 2 with cfg := { k0 with stopDetect := false } } =
      some (.idle, true, [Act.stop]) :=
  ⟨by decide, by decide, by decide, by decide, by decide, by decide, by decide⟩

theorem test_evStop :
    after (fun t => (t.phase, t.txn, t.done, t.status)) .evStop
      { flight .transmitting .stopPending 2 with status := .addressNak } = some (.idle, .idle, true, .addressNak) ∧
    after State.phase .evStop (flight .transmitting .addressPhase 1) = some .addressPhase := by decide

theorem test_evArbLost :
    after (fun t => (t.status, t.rxLen, t.done, t.out)) .evArbLost { reading 2 with rx := [(0, 1#8)], rxLen := 1 } =
      some (.arbitrationLost, 1, true, [Act.release]) ∧
    after State.out .evArbLost (addressed .receive) = some [] := by decide

theorem test_evTimeout :
    after (fun t => (t.status, t.rxLen, t.rxCur, t.out)) .evTimeout { reading 2 with rx := [(0, 1#8)], rxLen := 1 } =
      some (.timeout, 0, 0, [Act.release]) ∧
    after (fun t => (t.status, t.out)) .evTimeout { flight .transmitting .stopPending 1 with status := .addressNak } =
      some (.timeout, [Act.release]) := by decide

/-! ### Events as slave (95 section 7) -/

theorem test_evAddrMatch :
    after (fun t => (t.phase, t.rxLen)) (.evAddrMatch 0x84#8) { s0 with rxLen := 3 } =
      some (.slaveAddressed .receive, 0) ∧
    after (fun t => (t.phase, t.tx, t.txLen, t.out)) (.evAddrMatch 0x85#8) s0 =
      some (.slaveAddressed .transmit, [(0, 0x85#8)], 1, [Act.send 0xFF#8]) := by decide

theorem test_evAddrMatch_others :
    after State.phase (.evAddrMatch 0x86#8) s0 = some .idle ∧
    after State.events (.evAddrMatch 0x84#8) (addressed .receive) = some [0x5084#16] := by decide

theorem test_evByte_slave :
    after (fun t => (t.rxLen, t.rx)) (.evByte true 0x99#8) { addressed .receive with rxLen := 33 } = some (33, []) ∧
    after State.out (.evByte true 0#8) (addressed .transmit) = some [Act.send 0xFF#8] ∧
    after (fun t => (t.phase, t.txn, t.out)) (.evByte false 0#8) (addressed .transmit) = some (.idle, .idle, []) := by decide

theorem test_slaveReceive_deliver :
    after (fun t => (t.phase, t.cbActive, t.out)) .evStop
      { addressed .receive with rxLen := 3, cbReceive := some 1#24 } =
      some (.idle, .receive, [Act.cbReceive 3#8]) ∧
    after (fun t => (t.phase, t.out)) .evStart { addressed .receive with rxLen := 3 } = some (.idle, []) := by decide

theorem test_held :
    after State.events (.evByte true 1#8) inReceive = some [0x2101#16] ∧
    after State.events .evTimeout inReceive = some [] := by decide

/-! ### Actions (41 R177 to R182, 42 R202, R203, 44 R257 to R260) -/

theorem test_busRequests :
    [Act.start, .restart, .send 0xA0#8, .recv false, .stop, .release].map
      (fun a => after (fun t => t.busUnit.lastRequest) a.toInstr { m0 with busUnit := ⟨true, 0#8, none, some .start⟩ }) =
      [some (some Act.start), some (some .restart), some (some (.send 0xA0#8)), some (some (.recv false)),
        some (some .stop), some none] := by decide

theorem test_unitActions :
    after (fun t => t.busUnit.divider) (.setDiv 0x28#8) m0 = some 0x28#8 ∧
    after (fun t => t.busUnit.ownAddr) (.setSaddr 0x42#7) s0 = some (some 0x42#7) ∧
    after (fun t => t.busUnit.enabled) .enable p0 = some true ∧
    after (fun t => t.busUnit.enabled) .disable { p0 with busUnit := ⟨true, 0#8, none, none⟩ } = some false := by decide

theorem test_notices :
    after State.notices (.cbReceive 3#8) s0 = some [Act.cbReceive 3#8] ∧
    after State.notices .cbRequest s0 = some [Act.cbRequest] := by decide

/-! ### Fetching -/

/-- A stop is not offered before an earlier byte's event: the turn brings nothing (60 R279). -/
theorem test_step_busOrder :
    (nextOf (step { addressed .receive with events := [0x2111#16, 0x4000#16], agenda := [.busEvent 1] })).map
      (fun t => (t.phase, t.events, t.agenda)) =
        some (.slaveAddressed .receive, [0x2111#16, 0x4000#16], []) := by decide

/-- A held address match waits for the stop that ends the slave transaction (42 R191, R201; log 3). -/
theorem test_step_heldMatch :
    (nextOf (step { addressed .receive with events := [0x5084#16, 0x4000#16], agenda := [.busEvent 1] })).map
      (fun t => (t.phase, t.events, t.agenda)) = some (.idle, [0x5084#16], []) := by decide

theorem test_step_illegal :
    (nextOf (step { m0 with commands := [0x01000001#32], agenda := [.host] })).map lastWord =
      some (some 0x89000000#32) := by decide

/-- The word the host places is the word the next step runs (log 15, log 16). -/
theorem test_withFetchWord :
    (nextOf (step (State.withFetchWord p0 32 0x01000000))).map State.mode = some .master ∧
    (nextOf (step (State.withFetchWord p0 16 0xC000))).map (fun t => t.busUnit.enabled) = some true ∧
    decodeTableWord 32 0x130004D0 = some (.reqFrom 0x50#7 true 4#8) ∧ decodeTableWord 16 0x5084 = some (.evAddrMatch 0x84#8) ∧
    decodeTableWord 16 0x8003 = some (.cbReceive 3#8) := by decide

theorem test_reset : State.reset.mode = .off ∧ State.reset.phase = .idle ∧ State.reset.out = [] := by decide

/-! ### The blocking calls (30 R108, 43 R230, R231) -/

/-- A read of an absent device: the NAK, the stop, then the poll that sees `done` (95 T2). -/
theorem test_requestFrom_absent :
    (requestFromAndStop 0x50#7 4#8
      { m0 with
        commands := [0x19000000#32], events := [0x1000#16, 0x2000#16, 0x4000#16]
        agenda := [.busEvent 0, .host, .busEvent 0, .busEvent 0, .host] }).map
      (fun r => (r.1, r.2.commands)) = some (0#8, [0x19000000#32]) := by decide

/-- The sum of the responses of two WRITEs into a buffer with room for one (43 R232). -/
theorem test_writeAll_full :
    (writeAll [1#8, 2#8] { staged with txLen := 32 }).map (fun r => (r.1, r.2.txLen)) = some (1, 33) := by decide

/-- With nothing to read, `read()` returns -1 (30 R100, R109). -/
theorem test_readSigned_noData : (readSigned m0).map Prod.fst = some (-1) ∧ signedValue 0x0000FF#24 = 255 := by decide

/-! ### A fair run (41 R184 item 5) -/

/-- A transaction in flight, and the wait bound's turn. -/
def stalled : State := { flight .transmitting .startPending 1 with agenda := [.waitBound] }

/-- The same machine once the wait bound has ended the transaction. -/
def givenUp : State := { stalled.raise .timeout with agenda := [.waitBound] }

theorem stalled_step : step stalled = .next { givenUp with agenda := [] } := rfl

theorem givenUp_step : step givenUp = .next { givenUp with agenda := [] } := rfl

/-- A run in which the wait bound keeps its turn: it meets every hypothesis of transactionsEnd_of_fair. -/
theorem witness_transactionsEnd_of_fair :
    ∃ r : Nat → State, Run r ∧ WaitBoundFair r ∧ (r 0).inFlight := by
  refine ⟨fun n => if n = 0 then stalled else givenUp, fun n => ?_, fun n _ => ⟨n, le_refl n, ?_⟩, rfl, rfl⟩
  · refine ⟨{ givenUp with agenda := [] }, ?_, [], [], [.waitBound], by simpa using (by decide)⟩
    by_cases h : n = 0
    · simpa [h] using stalled_step
    · simpa [h] using givenUp_step
  · by_cases h : n = 0
    · simp only [h, if_true]; rfl
    · simp only [h, if_false]; rfl

/-! ### Witnesses: for each statement with hypotheses, concrete states and operands that meet them, clause by clause -/

theorem p0_inv : p0.Inv := Inv_of_off ⟨by decide, by decide, by decide, by decide⟩ (by decide : _ ∧ _)
theorem m0_inv : m0.Inv := Inv_of_masterIdle ⟨by decide, by decide, by decide, by decide⟩ (by decide : _ ∧ _)
theorem staged_inv : staged.Inv := Inv_of_masterIdle ⟨by decide, by decide, by decide, by decide⟩ (by decide : _ ∧ _)
theorem s0_inv : s0.Inv := Inv_of_slaveIdle ⟨by decide, by decide, by decide, by decide⟩ (by decide : _ ∧ _)

theorem flight_inv : (flight .transmitting .addressPhase 1).Inv :=
  Inv_of_masterFlight ⟨by decide, by decide, by decide, by decide⟩ (by decide : _ ∧ _)

theorem reading_inv : (reading 2).Inv :=
  Inv_of_masterFlight ⟨by decide, by decide, by decide, by decide⟩ (by decide : _ ∧ _)

theorem receiving_inv : (addressed .receive).Inv :=
  Inv_of_slaveBusy ⟨by decide, by decide, by decide, by decide⟩ (by decide : _ ∧ _)

theorem inRequest_inv : inRequest.Inv :=
  Inv_of_slaveBusy ⟨by decide, by decide, by decide, by decide⟩ (by decide : _ ∧ _)

theorem inReceive_inv : inReceive.Inv :=
  Inv_of_slaveIdle ⟨by decide, by decide, by decide, by decide⟩ (by decide : _ ∧ _)

theorem witness_EncodeInvertsDecode :
    decode (.cmd 0x1300FF7F#32) = .instr (.reqFrom 0x7F#7 false 255#8) ∧
    decode (.evt 0x2137#16) = .instr (.evByte true 0x37#8) ∧ decode (.act 0xB07F#16) = .instr (.setSaddr 0x7F#7) := by
  decide

/-- A master with one word at each port and turn `u` to come. -/
def offered (u : Turn) : State :=
  { m0 with commands := [0x05000000#32], events := [0x1000#16, 0x4000#16], actionPort := [.stop], agenda := [u] }

theorem witness_StepRunsTheOfferedWord :
    ((offered .host).agenda = [.host] ∧ (offered .host).commands = [0x05000000#32] ∧
      decode (.cmd 0x05000000#32) = .instr .getRate) ∧
    ((offered (.busEvent 1)).agenda = [.busEvent 1] ∧ (offered (.busEvent 1)).events[1]? = some 0x4000#16 ∧
      decode (.evt 0x4000#16) = .instr .evStop ∧ heldMatch (offered (.busEvent 1)) 0x1000#16 = false) ∧
    (heldMatch (addressed .receive) 0x5084#16 = true ∧ heldMatch (addressed .receive) 0x4000#16 = false) ∧
    (offered .waitBound).agenda = [.waitBound] ∧
    ((offered .takeAction).agenda = [.takeAction] ∧ (offered .takeAction).actionPort = [.stop]) := by decide

theorem witness_UndecodableWordsChangeNothing :
    ({ offered .host with commands := [0xFFFFFFFF#32] } : State).agenda = [.host] ∧
    selectsRow cmdRows 0xFFFFFFFF#32 = false ∧
    ({ offered (.busEvent 0) with events := [0x1001#16] } : State).events[0]? = some 0x1001#16 ∧
    selectsRow evtRows 0x1001#16 = false := by decide

theorem witness_PowerOnMeetsEveryInvariant :
    k0.wf = true ∧ ({ k0 with txCapacity := 2, rxCapacity := 1 } : Config).wf = true ∧
    ({ k0 with txCapacity := 256, rxCapacity := 255 } : Config).wf = true := by decide

theorem witness_NearestClockIsNearestAndHighest :
    k0.dividerTable ≠ [] ∧ 16000000 ∈ k0.dividerTable.map DividerRow.busClockHz ∧
    12000000 ∉ k0.dividerTable.map DividerRow.busClockHz ∧
    ((16000000 : Int) - (12000000 : Nat)).natAbs = ((nearestClock k0 12000000 : Int) - (12000000 : Nat)).natAbs := by
  decide

theorem witness_ResolveReadsTheNearestRow :
    k0.wf = true ∧ 0 < k0.rateClasses.length ∧ 1 < k0.rateClasses.length := by decide

theorem witness_ClassifyInvertsResolve :
    k0.wf = true ∧ 0 < k0.rateClasses.length ∧ 1 < k0.rateClasses.length := by decide

theorem witness_ClassifyFallsBackToFast :
    k0.wf = true ∧ ∀ k < k0.rateClasses.length, resolve k0 k 16000000 ≠ 0x99#8 := by decide

theorem witness_RateClassIsTheFloor :
    k0.wf = true ∧ k0.rateClasses[0]? = some ⟨.standard, 100000⟩ ∧ 100000 ≤ 399999 ∧
    k0.rateClasses[1]? = some ⟨.fast, 400000⟩ ∧ 400000 ≤ 400000 ∧ ∀ r ∈ k0.rateClasses, 99999 < r.nominalHz := by decide

theorem witness_StageBytesKeepsThePrefixThatFits :
    ({ m0 with txLen := 30 } : State).txLen ≤ k0.txCapacity ∧ ({ m0 with txLen := 33 } : State).txLen ≤ k0.txCapacity ∧
    0 < min [1#8, 2#8, 3#8, 4#8].length (33 - 30) ∧ ¬(30 ≤ 29 ∧ 29 < 30 + 3) := by decide

theorem witness_BeginMasterActivatesTheUnit : p0.mode = .off ∧ m0.mode ≠ .off := by decide

theorem witness_BeginSlaveActivatesTheUnit :
    p0.mode = .off ∧ p0.cfg.stopDetect = true ∧
    ({ p0 with cfg := { k0 with stopDetect := false } } : State).cfg.stopDetect = false ∧ s0.mode ≠ .off := by decide

theorem witness_EndDeactivatesAndLeavesBuffersOpen :
    p0.mode = .off ∧ m0.mode ≠ .off ∧ m0.phase = .idle ∧ m0.cbActive = .noCallback := by decide

theorem witness_ClockCommandsLoadAndReadTheDivider :
    m0.mode ≠ .off ∧ m0.phase = .idle ∧ m0.cbActive = .noCallback := by decide

theorem witness_PinsAndHandlersAreStored :
    p0.mode = .off ∧ s0.mode ≠ .off ∧ s0.phase = .idle ∧ s0.cbActive = .noCallback := by decide

theorem witness_BeginTxStagesTheAddressOnce :
    m0.mode = .master ∧ m0.phase = .idle ∧ m0.cbActive = .noCallback ∧ m0.transmitting = false ∧
    staged.mode = .master ∧ staged.phase = .idle ∧ staged.cbActive = .noCallback ∧ staged.transmitting = true := by decide

theorem witness_WriteStagesOrAnswersZero :
    staged.mode ≠ .off ∧ staged.transmitting = true ∧ staged.txLen < staged.cfg.txCapacity ∧
    inRequest.mode ≠ .off ∧ inRequest.cbActive = .request ∧ inRequest.txLen < inRequest.cfg.txCapacity ∧
    ¬(({ staged with txLen := 33 } : State).txLen < k0.txCapacity) ∧
    ¬(m0.transmitting = true ∨ m0.cbActive = .request) := by decide

theorem witness_EndTxIssuesTheWrite :
    staged.mode = .master ∧ staged.phase = .idle ∧ staged.cbActive = .noCallback ∧ staged.transmitting = true ∧
    m0.mode = .master ∧ m0.phase = .idle ∧ m0.cbActive = .noCallback ∧ m0.transmitting = false := by decide

theorem witness_ReqFromIssuesTheRead :
    m0.mode = .master ∧ m0.phase = .idle ∧ m0.cbActive = .noCallback ∧ m0.transmitting = false ∧
    staged.mode = .master ∧ staged.phase = .idle ∧ staged.cbActive = .noCallback ∧ staged.transmitting = true := by decide

theorem witness_GetResultPacksTheOutcome :
    (reading 2).mode ≠ .off ∧ (reading 2).cbActive = .noCallback ∧ (reading 2).rxLen ≤ 255 ∧
    ({ m0 with rxLen := 255, done := true } : State).rxLen ≤ 255 := by decide

theorem witness_RxReadersAnswerTheNextByte :
    received.mode ≠ .off ∧ received.phase = .idle ∧ received.rxCur < received.rxLen ∧
    received.rxLen ≤ received.cfg.rxCapacity ∧ inReceive.cbActive ≠ .noCallback ∧ inReceive.rxLen ≤ inReceive.rxCur ∧
    (flight .transmitting .addressPhase 1).txn ≠ .requesting ∧
    (flight .transmitting .addressPhase 1).phase ≠ .slaveAddressed .receive := by decide

theorem witness_CbReturnEndsTheHandler :
    inReceive.mode ≠ .off ∧ inReceive.cbActive = .receive ∧ inRequest.cbActive = .request ∧
    inRequest.txLen ≤ inRequest.cfg.txCapacity ∧ s0.cbActive = .noCallback := by decide

theorem witness_RefusedCommandsChangeNothing :
    commandOf? .getResult = some .getResult ∧ gate .getResult inReceive = some .inCallback := by decide

theorem witness_GateFollowsTheMatrix :
    p0.Inv ∧ p0.mode = .off ∧ m0.Inv ∧ m0.mode = .master ∧ m0.phase = .idle ∧ (reading 2).Inv ∧
    (reading 2).mode = .master ∧ (reading 2).phase ≠ .idle ∧ s0.Inv ∧ s0.mode = .slave ∧ s0.phase = .idle ∧
    s0.cbActive = .noCallback ∧ (addressed .receive).Inv ∧ (addressed .receive).mode = .slave ∧
    (addressed .receive).phase ≠ .idle ∧ (addressed .receive).cbActive = .noCallback ∧ inRequest.Inv ∧
    inRequest.cbActive ≠ .noCallback :=
  ⟨p0_inv, by decide, m0_inv, by decide, by decide, reading_inv, by decide, by decide, s0_inv, by decide, by decide,
    by decide, receiving_inv, by decide, by decide, by decide, inRequest_inv, by decide⟩

theorem witness_StartDetectedSendsTheAddressByte :
    (flight .transmitting .startPending 0).cfg.wf = true ∧ (flight .transmitting .startPending 0).mode = .master ∧
    (flight .transmitting .startPending 0).cbActive = .noCallback ∧
    (flight .transmitting .startPending 0).phase = .startPending := by decide

theorem witness_NakIsRecordedAndForcesAStop :
    (flight .transmitting .addressPhase 1).mode = .master ∧ (flight .transmitting .addressPhase 1).cbActive = .noCallback ∧
    (flight .transmitting .addressPhase 1).phase = .addressPhase ∧
    (flight .transmitting (.dataPhase .write) 2).phase = .dataPhase .write := by decide

theorem witness_AckedWriteSendsTheNextByteOrFinishes :
    (flight .transmitting .addressPhase 1).mode = .master ∧ (flight .transmitting .addressPhase 1).cbActive = .noCallback ∧
    (flight .transmitting .addressPhase 1).phase = .addressPhase ∧
    (flight .transmitting .addressPhase 1).txn = .transmitting ∧
    (flight .transmitting .addressPhase 1).txCur < (flight .transmitting .addressPhase 1).txLen ∧
    (flight .transmitting .addressPhase 1).txLen ≤ k0.txCapacity ∧
    (flight .transmitting (.dataPhase .write) 2).phase = .dataPhase .write ∧
    (flight .transmitting (.dataPhase .write) 2).txLen ≤ (flight .transmitting (.dataPhase .write) 2).txCur := by decide

theorem witness_AckedReadAddressAsksForTheFirstByte :
    (flight .requesting .addressPhase 1).mode = .master ∧ (flight .requesting .addressPhase 1).cbActive = .noCallback ∧
    (flight .requesting .addressPhase 1).phase = .addressPhase ∧ (flight .requesting .addressPhase 1).txn = .requesting ∧
    (flight .requesting .addressPhase 1).rxRemaining = 0 ∧
    1 ≤ ({ flight .requesting .addressPhase 1 with rxRemaining := 1 } : State).rxRemaining := by decide

theorem witness_ArrivedByteIsStoredAndTheNextAskedFor :
    (reading 1).mode = .master ∧ (reading 1).cbActive = .noCallback ∧ (reading 1).phase = .dataPhase .read ∧
    (reading 1).rxRemaining = 1 ∧ 2 ≤ (reading 2).rxRemaining ∧ 1 ≤ (reading 2).rxRemaining := by decide

theorem witness_StopDetectedCompletesTheTransaction :
    (flight .requesting .stopPending 1).mode = .master ∧ (flight .requesting .stopPending 1).cbActive = .noCallback ∧
    (flight .requesting .stopPending 1).phase = .stopPending := by decide

theorem witness_AbortReleasesTheBusAndCompletes :
    (reading 2).mode = .master ∧ (reading 2).phase = .dataPhase .read ∧ (reading 2).cbActive = .noCallback ∧
    (flight .transmitting .startPending 0).phase = .startPending := by decide

theorem witness_UnlistedEventsAreIgnored :
    p0.mode = .off ∧ isEvent .evStart = true ∧ m0.mode = .master ∧ m0.cbActive = .noCallback ∧ m0.phase = .idle ∧
    (flight .transmitting .addressPhase 1).phase ≠ .startPending ∧
    (flight .transmitting .addressPhase 1).phase ≠ .stopPending ∧
    (flight .transmitting .stopPending 1).phase = .stopPending ∧
    s0.mode = .slave ∧ s0.cbActive = .noCallback ∧ addressOf 0x86#8 ≠ s0.slaveAddr ∧ s0.phase = .idle := by decide

theorem witness_AddressMatchOpensTheSlaveTransaction :
    s0.mode = .slave ∧ s0.cbActive = .noCallback ∧ s0.phase = .idle ∧
    (0x84#8).extractLsb' 1 7 = s0.slaveAddr ∧ (0x84#8).getLsbD 0 = false ∧
    (0x85#8).extractLsb' 1 7 = s0.slaveAddr ∧ (0x85#8).getLsbD 0 = true ∧ s0.cbRequest = none ∧
    ({ s0 with cbRequest := some 0#24 } : State).cbRequest ≠ none := by decide

theorem witness_SlaveReceiveStoresThenDelivers :
    (addressed .receive).mode = .slave ∧ (addressed .receive).cbActive = .noCallback ∧
    (addressed .receive).phase = .slaveAddressed .receive ∧ (addressed .receive).cbReceive = none ∧
    ({ addressed .receive with cbReceive := some 1#24, rxLen := 33 } : State).cbReceive ≠ none := by decide

theorem witness_SlaveTransmitSendsUntilTheMasterEnds :
    (addressed .transmit).mode = .slave ∧ (addressed .transmit).cbActive = .noCallback ∧
    (addressed .transmit).phase = .slaveAddressed .transmit ∧
    (addressed .transmit).txLen ≤ (addressed .transmit).cfg.txCapacity := by decide

theorem witness_HandlersHoldEveryEvent :
    isEvent (.evByte true 1#8) = true ∧ Instr.evByte true 1#8 ≠ .evTimeout ∧ inReceive.mode = .slave ∧
    inReceive.cbActive ≠ .noCallback ∧ (addressed .receive).mode = .slave ∧ (addressed .receive).phase ≠ .idle := by decide

theorem witness_EmittedActionsReachTheActionPort :
    after (fun t => (t.out, t.actionPort)) .beginMaster p0 =
      some ([Act.enable, Act.setDiv 0xA0#8], [Act.enable, Act.setDiv 0xA0#8]) := by decide

theorem witness_StoresTouchOneByteOnly :
    (nextOf (exec (.write 7#8) staged)).isSome = true ∧ txStore (.write 7#8) staged = some 2 ∧
    txStore (.beginTx 0#7) m0 = some 0 ∧ txStore (.reqFrom 0#7 true 1#8) m0 = some 0 ∧
    txStore (.evAddrMatch 0x85#8) s0 = some 0 ∧ rxStore (.evByte true 0#8) (reading 2) = some 0 ∧
    rxStore (.evByte true 0#8) { addressed .receive with rxLen := 32 } = some 32 ∧
    rxStore (.evByte true 0#8) { addressed .receive with rxLen := 33 } = none := by decide

theorem witness_RegistersHaveTheirOwnWriters :
    (nextOf (exec (.setPins 1#8 2#8) m0)).isSome = true ∧
    after State.pinScl (.setPins 1#8 2#8) m0 ≠ some m0.pinScl ∧
    (flight .transmitting .stopPending 1).done = false ∧
    after State.done .evStop (flight .transmitting .stopPending 1) = some true ∧
    after State.done (.endTx true) { staged with done := true } = some false ∧
    after State.busHeld (.endTx true) { staged with busHeld := true } = some false ∧
    after State.busHeld (.evByte true 0#8)
      { flight .transmitting (.dataPhase .write) 2 with sendStop := false } = some true ∧
    after State.status .evTimeout (flight .transmitting .addressPhase 1) = some .timeout := by decide

/-- A state with a word to run that meets every invariant a step keeps. -/
def legal : State := { received with commands := [0x19000000#32], agenda := [.host] }

theorem witness_StepKeepsTheSpecInvariants :
    legal.cfg.wf = true ∧ legal.Inv ∧ (nextOf (step legal)).map State.rxCur = some 1 :=
  ⟨by decide, Inv_of_masterIdle ⟨by decide, by decide, by decide, by decide⟩ (by decide : _ ∧ _), by decide⟩

theorem witness_StepKeepsTheBuffersCanonical :
    legal.cfg.wf = true ∧ legal.BuffersWf ∧ (nextOf (step legal)).isSome = true :=
  ⟨by decide, ⟨by decide, by decide, by decide, by decide⟩, by decide⟩

theorem witness_StepKeepsWhatReadsRelyOn :
    legal.BuffersWritten ∧ legal.CountsBytes ∧ (nextOf (step legal)).isSome = true :=
  ⟨⟨by decide, by decide⟩, ⟨by decide, by decide⟩, by decide⟩

theorem witness_StepKeepsActionsWellFormed :
    legal.cfg.wf = true ∧ legal.Inv ∧ legal.ActionsWf ∧ (nextOf (step legal)).isSome = true :=
  ⟨by decide, witness_StepKeepsTheSpecInvariants.2.1, ⟨by decide, by decide, by decide, by decide⟩, by decide⟩

theorem witness_LegalStatesNeverStop : legal.cfg.wf = true ∧ legal.Inv :=
  ⟨by decide, witness_StepKeepsTheSpecInvariants.2.1⟩

theorem witness_NoStartWhileInFlight :
    (reading 2).phase ≠ .idle ∧ (nextOf (exec (.evByte true 1#8) (reading 2))).isSome = true := by decide

theorem witness_SlaveModeEmitsNoMasterAction :
    (addressed .receive).Inv ∧ (addressed .receive).mode = .slave ∧
    (nextOf (exec .evStop (addressed .receive))).isSome = true := ⟨receiving_inv, by decide, by decide⟩

theorem witness_ErrorsReleaseTheBus :
    (reading 2).Inv ∧ after State.status .evTimeout (reading 2) = some .timeout ∧ (reading 2).status = .success :=
  ⟨reading_inv, by decide, by decide⟩

theorem witness_DividerAndPinsSteerNothing :
    (∀ f, Instr.endUnit ≠ .setClock f) ∧ Instr.endUnit ≠ .getRate ∧ Instr.endUnit ≠ .beginMaster ∧
    (∀ a, Instr.endUnit ≠ .beginSlave a) ∧ ∀ c d, Instr.endUnit ≠ .setPins c d :=
  ⟨nofun, nofun, nofun, nofun, nofun⟩

theorem witness_MasterWriteSendsExactlyTheStagedBytes :
    (flight .transmitting .startPending 0).mode = .master ∧ (flight .transmitting .startPending 0).cbActive = .noCallback ∧
    (flight .transmitting .startPending 0).phase = .startPending ∧
    (flight .transmitting .startPending 0).txn = .transmitting ∧ 1 ≤ (flight .transmitting .startPending 0).txLen ∧
    (flight .transmitting .startPending 0).txLen ≤ k0.txCapacity ∧
    [0#8, 0#8].length = (flight .transmitting .startPending 0).txLen := by decide

theorem witness_MasterReadAcknowledgesAllButTheLast :
    ({ flight .requesting .addressPhase 1 with rxRemaining := 1 } : State).mode = .master ∧
    ({ flight .requesting .addressPhase 1 with rxRemaining := 1 } : State).cbActive = .noCallback ∧
    ({ flight .requesting .addressPhase 1 with rxRemaining := 1 } : State).phase = .addressPhase ∧
    ({ flight .requesting .addressPhase 1 with rxRemaining := 1 } : State).txn = .requesting ∧
    1 ≤ ({ flight .requesting .addressPhase 1 with rxRemaining := 1 } : State).rxRemaining ∧
    ({ flight .requesting .addressPhase 1 with rxRemaining := 1 } : State).rxLen ≤ k0.rxCapacity ∧
    [(true, 0#8)].length = ({ flight .requesting .addressPhase 1 with rxRemaining := 1 } : State).rxRemaining := by decide

theorem witness_SlaveReceiveDeliversExactlyOnce :
    s0.mode = .slave ∧ s0.cbActive = .noCallback ∧ s0.phase = .idle ∧ addressOf 0x84#8 = s0.slaveAddr ∧
    readBit 0x84#8 = false ∧ (Instr.evStop = .evStop ∨ Instr.evStop = .evStart) := by decide

theorem witness_SlaveTransmitSendsInOrderThenFill :
    (addressed .transmit).mode = .slave ∧ (addressed .transmit).cbActive = .noCallback ∧
    (addressed .transmit).phase = .slaveAddressed .transmit ∧
    (addressed .transmit).txLen ≤ (addressed .transmit).cfg.txCapacity ∧
    (addressed .transmit).txLen ≤ (addressed .transmit).txCur + 0 ∧
    (addressed .transmit).cfg.slaveTxFill = some 0xFF#8 ∧
    ({ addressed .transmit with txLen := 3 } : State).txCur + 1 < 3 := by decide

theorem witness_WritesRetainWhatFits :
    m0.cfg.wf = true ∧ m0.mode = .master ∧ m0.phase = .idle ∧ m0.cbActive = .noCallback ∧ m0.transmitting = false := by
  decide

theorem witness_RequestNeverExceedsItsQuantity :
    m0.mode = .master ∧ m0.phase = .idle ∧ m0.cbActive = .noCallback ∧ m0.transmitting = false ∧
    (∀ i ∈ [Instr.evStart, .evByte true 0#8, .evByte true 7#8], isEvent i = true) ∧
    (nextOf (execAll [.reqFrom 0x50#7 true 1#8, .evStart, .evByte true 0#8, .evByte true 7#8] m0)).map State.rxLen =
      some 1 := by decide

end Sys2Proof.Tests
end

section
/-! Fetching and stepping, turn by turn (00_scope.md R5 to R7, 60_exceptions.md R279): what each kind of turn brings and
what the step then does; and the default configuration of 00_scope.md R4, whatever its OPEN parameters are. -/

namespace Sys2Proof.Machine

/-! ### Reading a word that decodes -/

theorem readCommand_of_decode {w : CmdWord} {i : Instr} (h : decode (.cmd w) = .instr i) :
    readCommand w = .instr i := by
  simp [readCommand, h]

theorem readEvent_of_decode {w : EvtWord} {i : Instr} (h : decode (.evt w) = .instr i) :
    readEvent w = .instr i := by
  simp [readEvent, h]

/-! ### What the bus-side unit offers -/

/-- The order of the bus lets the event `w` at place `k` be offered: it is the oldest, or all before it are held
address matches and it is none (60 R279; log 3). -/
def Offerable (s : State) (k : Nat) (w : EvtWord) : Prop :=
  k = 0 ∨ ((∀ v ∈ s.events.take k, heldMatch s v = true) ∧ heldMatch s w = false)

theorem offered?_of_offerable {s : State} {k : Nat} {w : EvtWord} (hw : s.events[k]? = some w)
    (hk : Offerable s k w) : offered? s k = some w := by
  have hall : k = 0 ∨ ((s.events.take k).all (heldMatch s) = true ∧ heldMatch s w = false) :=
    hk.imp_right (And.imp_left List.all_eq_true.mpr)
  simp only [offered?, hw]
  exact if_pos hall

theorem offered?_of_not_offerable {s : State} {k : Nat} {w : EvtWord} (hw : s.events[k]? = some w)
    (hk : ¬ Offerable s k w) : offered? s k = none := by
  cases ho : offered? s k with
  | none => rfl
  | some v =>
    obtain ⟨hv, hkv⟩ := offered?_cases ho
    obtain rfl : w = v := Option.some.inj (hw.symm.trans hv)
    exact absurd hkv hk

/-! ### What a turn brings -/

section Turns
variable {s : State} {turns : List Turn}

theorem fetch_host {w : CmdWord} {rest : List CmdWord} (ha : s.agenda = .host :: turns)
    (hc : s.commands = w :: rest) :
    fetch s = (readCommand w, { s with agenda := turns, commands := rest }) := by
  simp [fetch, takeTurn, ha, hc]

theorem fetch_busEvent {k : Nat} {w : EvtWord} (ha : s.agenda = .busEvent k :: turns)
    (ho : offered? s k = some w) :
    fetch s = (readEvent w, { s with agenda := turns, events := s.events.eraseIdx k }) := by
  have ho' : offered? { s with agenda := turns } k = some w := ho
  simp [fetch, takeTurn, ha, ho']

theorem fetch_busEvent_of_none {k : Nat} (ha : s.agenda = .busEvent k :: turns) (ho : offered? s k = none) :
    fetch s = (.nothing, { s with agenda := turns }) := by
  have ho' : offered? { s with agenda := turns } k = none := ho
  simp [fetch, takeTurn, ha, ho']

theorem fetch_waitBound (ha : s.agenda = .waitBound :: turns) :
    fetch s = (.instr .evTimeout, { s with agenda := turns }) := by
  simp [fetch, takeTurn, ha]

theorem fetch_takeAction {a : Act} {rest : List Act} (ha : s.agenda = .takeAction :: turns)
    (hp : s.actionPort = a :: rest) :
    fetch s = (.instr a.toInstr, { s with agenda := turns, actionPort := rest }) := by
  simp [fetch, takeTurn, ha, hp]

end Turns

/-! ### The step, by what was fetched -/

theorem step_of_fetch_instr {s t : State} {i : Instr} (h : fetch s = (.instr i, t)) : step s = exec i t := by
  simp [step, h]

theorem step_of_fetch_nothing {s t : State} (h : fetch s = (.nothing, t)) : step s = .next t := by
  simp [step, h]

/-! ### The step, by whose turn it is -/

section Turns
variable {s : State} {turns : List Turn}

theorem step_host_turn {w : CmdWord} {rest : List CmdWord} {i : Instr} (ha : s.agenda = .host :: turns)
    (hc : s.commands = w :: rest) (hd : decode (.cmd w) = .instr i) :
    step s = exec i { s with agenda := turns, commands := rest } :=
  step_of_fetch_instr <| by rw [fetch_host ha hc, readCommand_of_decode hd]

theorem step_busEvent_turn_offered {k : Nat} {w : EvtWord} {i : Instr} (ha : s.agenda = .busEvent k :: turns)
    (hw : s.events[k]? = some w) (hd : decode (.evt w) = .instr i) (hk : Offerable s k w) :
    step s = exec i { s with agenda := turns, events := s.events.eraseIdx k } :=
  step_of_fetch_instr <| by rw [fetch_busEvent ha (offered?_of_offerable hw hk), readEvent_of_decode hd]

theorem step_busEvent_turn_held_back {k : Nat} {w : EvtWord} (ha : s.agenda = .busEvent k :: turns)
    (hw : s.events[k]? = some w) (hk : ¬ Offerable s k w) : step s = .next { s with agenda := turns } :=
  step_of_fetch_nothing (fetch_busEvent_of_none ha (offered?_of_not_offerable hw hk))

theorem step_waitBound_turn (ha : s.agenda = .waitBound :: turns) :
    step s = exec .evTimeout { s with agenda := turns } :=
  step_of_fetch_instr (fetch_waitBound ha)

theorem step_takeAction_turn {a : Act} {rest : List Act} (ha : s.agenda = .takeAction :: turns)
    (hp : s.actionPort = a :: rest) : step s = exec a.toInstr { s with agenda := turns, actionPort := rest } :=
  step_of_fetch_instr (fetch_takeAction ha hp)

end Turns

/-- Settles O5: one lemma per kind of turn; a pending event is offered or held back by the order of the bus. -/
theorem stepRunsTheOfferedWord : Obligations.StepRunsTheOfferedWord := by
  unfold Obligations.StepRunsTheOfferedWord
  intro s turns
  refine ⟨fun w rest i => step_host_turn, fun k w i ha hw hd => ?_, step_waitBound_turn,
    fun a rest => step_takeAction_turn⟩
  by_cases hk : Offerable s k w
  · exact (step_busEvent_turn_offered ha hw hd hk).trans (if_pos hk).symm
  · exact (step_busEvent_turn_held_back ha hw hk).trans (if_neg hk).symm

/-! ### The default configuration -/

/-- The row that stands in for an ill-formed table: its two settings differ in their lowest bit. -/
theorem tableOk_singleton_xor_one (hz : Nat) (v : Byte) :
    Config.tableOk 2 8 [⟨hz, [v, v ^^^ 1#8]⟩] = true := by
  have hne : v ≠ v ^^^ 1#8 := fun h =>
    absurd ((BitVec.xor_right_inj v).mp (BitVec.xor_zero.trans h)) (by decide : (0#8 : Byte) ≠ 1#8)
  have hv : v.toNat < 256 := v.isLt
  have hx : v.toNat ^^^ 1 < 256 := (v ^^^ 1#8).isLt
  simp [Config.tableOk, Config.rowOk, allDistinct, hne, hv, hx]

theorem tableOk_openDividerTable : Config.tableOk 2 8 Config.openDividerTable = true := by
  unfold Config.openDividerTable
  split
  · assumption
  · exact tableOk_singleton_xor_one _ _

/-- Every constraint but the table's is on a parameter that R4 gives a default. -/
theorem ofSpec_wf : Config.ofSpec.wf = true := by
  have htable : Config.ofSpec.dividerTableOk = true := tableOk_openDividerTable
  simp only [Config.wf, htable]
  decide

/-- Settles O7: power-on tests `Config.wf` and nothing else, and the default configuration passes. -/
theorem powerOnRefusesIllFormedConfigurations : Obligations.PowerOnRefusesIllFormedConfigurations := by
  unfold Obligations.PowerOnRefusesIllFormedConfigurations
  have hpower : ∀ c : Config, State.powerOn c =
      if c.wf = true then .next (State.afterPowerOn c) else .refused .illFormedConfiguration := fun _ => rfl
  exact ⟨hpower, (hpower Config.ofSpec).trans (if_pos ofSpec_wf)⟩

end Sys2Proof.Machine
end

section
/-! What an instruction can do, said once (41_master_sequencer.md R169, 42_slave_sequencer.md R201,
43_host_commands.md R220): the cases of an event, of an accepted command and of a step. Every invariant is then a case
analysis over them. -/

namespace Sys2Proof.Machine

/-! ### The states an instruction starts from -/

/-- The unit is in mode `m` at phase `p` with no handler active. -/
structure State.Ready (s : State) (m : Mode) (p : Phase) : Prop where
  mode    : s.mode = m
  handler : s.cbActive = .noCallback
  phase   : s.phase = p

/-- `t` is `s` but for the ports around the registers: what no invariant of the registers and buffers speaks of. -/
def SameRegisters (s t : State) : Prop :=
  t = { s with
    responses := t.responses
    commands := t.commands
    events := t.events
    actionPort := t.actionPort
    agenda := t.agenda
    busUnit := t.busUnit
    notices := t.notices }

theorem fetch_sameRegisters (s : State) : SameRegisters s (fetch s).2 := by
  rw [SameRegisters, fetch_frame]

/-! ### Events -/

/-- The slave addressed for reading, with the address byte it saw at index 0 of TX (42 R193). -/
def slaveTransmitOpen (d : Byte) (s : State) : State :=
  { s with txn := .slaveAddressed, phase := .slaveAddressed .transmit, tx := s.tx.write 0 d, txLen := 1, txCur := 1 }

theorem slaveTransmitEntry_cases (d : Byte) (s : State) :
    (s.cbRequest ≠ none ∧
      slaveTransmitEntry d s = .next ((slaveTransmitOpen d s).enterHandler .request .cbRequest)) ∨
    (s.cbRequest = none ∧ slaveTransmitEntry d s = slaveSend (slaveTransmitOpen d s)) := by
  cases h : s.cbRequest with
  | none => exact .inr ⟨rfl, by simp [slaveTransmitEntry, h, slaveTransmitOpen]⟩
  | some k => exact .inl ⟨nofun, by simp [slaveTransmitEntry, h, slaveTransmitOpen]⟩

/-- The cases of an event `i` consumed in state `s`: what it leaves, and where. -/
inductive EventStep (s : State) : Instr → State → Prop
  | ignored (i : Instr) : EventStep s i s
  | held (i : Instr) : EventStep s i (s.hold i)
  | addressSent {b : Byte} : s.Ready .master .startPending → s.txByte? 0 = some b →
      EventStep s .evStart { s.emit (.send b) with txCur := 1, phase := .addressPhase }
  | writeOpened {d : Byte} {t : State} : s.Ready .master .addressPhase → s.txn = .transmitting →
      writeNext { s with phase := .dataPhase .write } = .next t → EventStep s (.evByte true d) t
  | readOpened (d : Byte) : s.Ready .master .addressPhase → s.txn = .requesting →
      EventStep s (.evByte true d) (readNext { s with phase := .dataPhase .read })
  | addressRefused (d : Byte) : s.Ready .master .addressPhase → EventStep s (.evByte false d) (s.raise .addressNak)
  | byteTaken {d : Byte} {t : State} : s.Ready .master (.dataPhase .write) → writeNext s = .next t →
      EventStep s (.evByte true d) t
  | byteRefused (d : Byte) : s.Ready .master (.dataPhase .write) → EventStep s (.evByte false d) (s.raise .dataNak)
  | byteArrived (ack : Bool) (d : Byte) : s.Ready .master (.dataPhase .read) →
      EventStep s (.evByte ack d) (byteArrived d s)
  | stopDetected : s.Ready .master .stopPending → EventStep s .evStop s.complete
  | arbitrationLost : s.cbActive = .noCallback → s.inFlight → EventStep s .evArbLost (s.raise .arbitrationLost)
  | timedOut : s.inFlight → EventStep s .evTimeout (s.raise .timeout)
  | delivered {i : Instr} : i = .evStart ∨ i = .evStop → s.Ready .slave (.slaveAddressed .receive) →
      EventStep s i (slaveDeliver s)
  | transmitEnded {i : Instr} : i = .evStart ∨ i = .evStop ∨ (∃ d, i = .evByte false d) →
      s.Ready .slave (.slaveAddressed .transmit) → EventStep s i (slaveDone s)
  | received (ack : Bool) (d : Byte) : s.Ready .slave (.slaveAddressed .receive) →
      EventStep s (.evByte ack d) (s.pushReceived d)
  | nextSent {d : Byte} {t : State} : s.Ready .slave (.slaveAddressed .transmit) → slaveSend s = .next t →
      EventStep s (.evByte true d) t
  | writeMatched (d : Byte) : s.Ready .slave .idle → EventStep s (.evAddrMatch d) (slaveReceiveEntry s)
  | requestEntered (d : Byte) : s.Ready .slave .idle → s.cbRequest ≠ none →
      EventStep s (.evAddrMatch d) ((slaveTransmitOpen d s).enterHandler .request .cbRequest)
  | readAnswered (d : Byte) {t : State} : s.Ready .slave .idle → s.cbRequest = none →
      slaveSend (slaveTransmitOpen d s) = .next t → EventStep s (.evAddrMatch d) t

theorem sendAddress_next {s t : State} (h : sendAddress s = .next t) :
    ∃ b, s.txByte? 0 = some b ∧ t = { s.emit (.send b) with txCur := 1, phase := .addressPhase } := by
  unfold sendAddress at h
  split at h
  next b hb => cases h; exact ⟨b, hb, rfl⟩
  · cases h

theorem evStart_step {s t : State} (h : execEvStart s = .next t) : EventStep s .evStart t := by
  unfold execEvStart at h
  rcases event_next h with ⟨_, rfl⟩ | ⟨_, _, rfl⟩ | ⟨hm, hc, h⟩ | ⟨hm, hc, h⟩
  · exact .ignored _
  · exact .held _
  · split at h
    next hp =>
      obtain ⟨b, hb, rfl⟩ := sendAddress_next h
      exact .addressSent ⟨hm, hc, hp⟩ hb
    · cases h; exact .ignored _
  · split at h <;> cases h
    next hp => exact .delivered (.inl rfl) ⟨hm, hc, hp⟩
    next hp => exact .transmitEnded (.inl rfl) ⟨hm, hc, hp⟩
    all_goals exact .ignored _

theorem addressAnswered_step {s t : State} {ack : Bool} {d : Byte} (hr : s.Ready .master .addressPhase)
    (h : addressAnswered ack s = .next t) : EventStep s (.evByte ack d) t := by
  cases ack with
  | false => cases h; exact .addressRefused d hr
  | true =>
    simp only [addressAnswered, if_true] at h
    split at h
    next hk => exact .writeOpened hr hk h
    next hk => cases h; exact .readOpened d hr hk
    all_goals cases h; exact .ignored _

theorem byteAnswered_step {s t : State} {ack : Bool} {d : Byte} (hr : s.Ready .master (.dataPhase .write))
    (h : byteAnswered ack s = .next t) : EventStep s (.evByte ack d) t := by
  cases ack with
  | false => cases h; exact .byteRefused d hr
  | true => exact .byteTaken hr h

theorem evByte_step {s t : State} {ack : Bool} {d : Byte} (h : execEvByte ack d s = .next t) :
    EventStep s (.evByte ack d) t := by
  unfold execEvByte at h
  rcases event_next h with ⟨_, rfl⟩ | ⟨_, _, rfl⟩ | ⟨hm, hc, h⟩ | ⟨hm, hc, h⟩
  · exact .ignored _
  · exact .held _
  · split at h
    next hp => exact addressAnswered_step ⟨hm, hc, hp⟩ h
    next hp => exact byteAnswered_step ⟨hm, hc, hp⟩ h
    next hp => cases h; exact .byteArrived ack d ⟨hm, hc, hp⟩
    all_goals cases h; exact .ignored _
  · split at h
    next hp => cases h; exact .received ack d ⟨hm, hc, hp⟩
    next hp =>
      cases ack with
      | false => cases h; exact .transmitEnded (.inr (.inr ⟨d, rfl⟩)) ⟨hm, hc, hp⟩
      | true => exact .nextSent ⟨hm, hc, hp⟩ h
    all_goals cases h; exact .ignored _

theorem evArbLost_step {s t : State} (h : execEvArbLost s = .next t) : EventStep s .evArbLost t := by
  unfold execEvArbLost at h
  rcases event_next h with ⟨_, rfl⟩ | ⟨_, _, rfl⟩ | ⟨hm, hc, h⟩ | ⟨_, _, h⟩
  · exact .ignored _
  · exact .held _
  · split at h <;> cases h
    next hp => exact .arbitrationLost hc ⟨hm, hp⟩
    · exact .ignored _
  · cases h; exact .ignored _

theorem evStop_step {s t : State} (h : execEvStop s = .next t) : EventStep s .evStop t := by
  unfold execEvStop at h
  rcases event_next h with ⟨_, rfl⟩ | ⟨_, _, rfl⟩ | ⟨hm, hc, h⟩ | ⟨hm, hc, h⟩
  · exact .ignored _
  · exact .held _
  · split at h <;> cases h
    next hp => exact .stopDetected ⟨hm, hc, hp⟩
    · exact .ignored _
  · split at h <;> cases h
    next hp => exact .delivered (.inr rfl) ⟨hm, hc, hp⟩
    next hp => exact .transmitEnded (.inr (.inl rfl)) ⟨hm, hc, hp⟩
    all_goals exact .ignored _

theorem evAddrMatch_step {s t : State} {d : Byte} (h : execEvAddrMatch d s = .next t) :
    EventStep s (.evAddrMatch d) t := by
  unfold execEvAddrMatch at h
  split at h
  · cases h; exact .ignored _
  · cases h; exact .ignored _
  next hm =>
    split at h
    · cases h; exact .held _
    next hc =>
      split at h
      · cases h; exact .held _
      next hp =>
        have hr : s.Ready .slave .idle := ⟨hm, not_not.mp hc, not_not.mp hp⟩
        split at h
        · cases h; exact .ignored _
        · split at h
          · rcases slaveTransmitEntry_cases d s with ⟨hk, e⟩ | ⟨hk, e⟩ <;> rw [e] at h
            · cases h; exact .requestEntered d hr hk
            · exact .readAnswered d hr hk h
          · cases h; exact .writeMatched d hr

theorem evTimeout_step {s t : State} (h : execEvTimeout s = .next t) : EventStep s .evTimeout t := by
  unfold execEvTimeout at h
  split at h
  · cases h; exact .ignored _
  next hm =>
    split at h <;> cases h
    next hp => exact .timedOut ⟨hm, hp⟩
    · exact .ignored _
  · cases h; exact .ignored _

/-- The inversion of an event. -/
theorem event_step {i : Instr} {s t : State} (hi : isEvent i = true) (h : exec i s = .next t) : EventStep s i t := by
  cases i with
  | evStart => exact evStart_step h
  | evByte ack d => exact evByte_step h
  | evArbLost => exact evArbLost_step h
  | evStop => exact evStop_step h
  | evAddrMatch d => exact evAddrMatch_step h
  | evTimeout => exact evTimeout_step h
  | _ => simp [isEvent] at hi

/-! ### Commands -/

/-- BEGIN passes the gate in Off only (43 R220 line 2). -/
theorem off_of_gate_begin {c : Command} {s : State} (hc : c = .beginMaster ∨ c = .beginSlave)
    (hg : gate c s = none) : s.mode = .off := by
  by_contra hm
  simp [gate, hm, hc] at hg

/-- Outside Off, END passes the gate in Idle outside a handler only. -/
theorem idle_of_gate_endUnit {s : State} (hm : s.mode ≠ .off) (hg : gate .endUnit s = none) :
    s.phase = .idle ∧ s.cbActive = .noCallback := by
  have hc : s.cbActive = .noCallback := by
    by_contra hc
    simp [gate, hm, hc, acceptedInCallback] at hg
  refine ⟨?_, hc⟩
  by_contra hp
  simp [gate, hm, hc, hp, masterCommands, acceptedInFlight, rxReaders] at hg

/-- The master transaction commands pass the gate for an idle master only (43 R220 lines 5 and 6). -/
theorem ready_of_gate_master {c : Command} {s : State} (hc : masterCommands.contains c = true)
    (hg : gate c s = none) : s.Ready .master .idle := by
  have hmem : c = .beginTx ∨ c = .endTx ∨ c = .reqFrom := by simpa [masterCommands] using hc
  have hoff : s.mode ≠ .off := by
    intro hm
    rcases hmem with rfl | rfl | rfl <;> simp [gate, hm, acceptedOff] at hg
  have hcb : s.cbActive = .noCallback := by
    by_contra hcb
    rcases hmem with rfl | rfl | rfl <;> simp [gate, hoff, hcb, acceptedInCallback] at hg
  have hslave : s.mode ≠ .slave := by
    intro hm
    rcases hmem with rfl | rfl | rfl <;> simp [gate, hm, hcb, masterCommands] at hg
  refine ⟨?_, hcb, ?_⟩
  · cases hm : s.mode <;> simp_all
  · by_contra hp
    rcases hmem with rfl | rfl | rfl <;>
      simp [gate, hoff, hcb, hslave, hp, acceptedInFlight, rxReaders] at hg

/-- END_TX passes the gate with staging open only (43 R220 line 7). -/
theorem transmitting_of_gate_endTx {s : State} (hg : gate .endTx s = none) : s.transmitting = true := by
  obtain ⟨hm, hc, hp⟩ := ready_of_gate_master rfl hg
  by_contra ht
  simp [gate, hm, hc, hp, masterCommands, ht] at hg

/-- REQ_FROM passes the gate with staging closed only (43 R220 line 7). -/
theorem not_transmitting_of_gate_reqFrom {s : State} (hg : gate .reqFrom s = none) : s.transmitting = false := by
  obtain ⟨hm, hc, hp⟩ := ready_of_gate_master rfl hg
  by_contra ht
  simp [gate, hm, hc, hp, masterCommands, ht] at hg

/-- What an accepted command does before its response is given. -/
inductive Accepted (s : State) : Instr → State → Prop
  | unchanged (i : Instr) : Accepted s i s
  | beginMaster : s.mode = .off → Accepted s .beginMaster (announce { initCommon s with mode := .master })
  | beginSlave (a : BusAddr) : s.mode = .off → s.cfg.stopDetect = true →
      Accepted s (.beginSlave a)
        ((announce { initCommon s with slaveAddr := a, mode := .slave }).emit (.setSaddr a))
  | endUnit : s.mode ≠ .off → s.phase = .idle → s.cbActive = .noCallback →
      Accepted s .endUnit { (((if s.busHeld then s.emit .release else s).emit .disable).scrambleBuffers) with
        mode := .off, transmitting := false, busHeld := false, done := false }
  | setClock (f : BitVec 24) (v : Byte) : v = resolve s.cfg (rateClassOf s.cfg f.toNat) s.cfg.busClockHz →
      Accepted s (.setClock f) ({ s with clockSetting := v }.emit (.setDiv v))
  | setPins (scl sda : Byte) : Accepted s (.setPins scl sda) { s with pinScl := scl, pinSda := sda }
  | beginTx (a : BusAddr) : s.Ready .master .idle → s.transmitting = false →
      Accepted s (.beginTx a) { s.stageAddress a false with transmitting := true }
  | write (d : Byte) : s.transmitting = true ∨ s.cbActive = .request → Accepted s (.write d) (s.stageByte d).1
  | endTx (stop : Bool) : s.Ready .master .idle → s.transmitting = true →
      Accepted s (.endTx stop) (startMaster .transmitting { s with sendStop := stop, transmitting := false })
  | reqFrom (a : BusAddr) (stop : Bool) (q : Byte) : s.Ready .master .idle → s.transmitting = false →
      Accepted s (.reqFrom a stop q) (startMaster .requesting
        { (s.stageAddress a true).resetRx with rxRemaining := q.toNat, sendStop := stop })
  | read : s.rxCur < s.rxLen → Accepted s .read { s with rxCur := s.rxCur + 1 }
  | onReceive (h : Handle) : Accepted s (.onReceive h) { s with cbReceive := some h }
  | onRequest (h : Handle) : Accepted s (.onRequest h) { s with cbRequest := some h }
  | cbReturn : s.cbActive ≠ .request → Accepted s .cbReturn s.leaveHandler
  | cbReturnSends {t : State} : s.cbActive = .request → slaveSend s.leaveHandler = .next t → Accepted s .cbReturn t

/-- The cases of a command: refused, or accepted and answered. -/
inductive CommandStep (s : State) (i : Instr) : State → Prop
  | refused (r : Reason) : CommandStep s i (s.refuse r)
  | answered {t : State} (v : BitVec 24) : Accepted s i t → CommandStep s i (t.respond v)

/-- The inversion of a command. -/
theorem command_step {i : Instr} {s t : State} (hi : isCommand i = true) (h : exec i s = .next t) :
    CommandStep s i t := by
  cases i <;> simp only [isCommand, commandOf?, Option.isSome_none, Bool.false_eq_true] at hi <;>
    simp only [exec, execBeginMaster, execBeginSlave, execEndUnit, execSetClock, execGetRate, execSetPins,
      execBeginTx, execWrite, execEndTx, execReqFrom, execGetResult, execAvailable, execRead, execPeek,
      execOnReceive, execOnRequest, execCbReturn] at h <;>
    (rcases command_next h with ⟨r, _, rfl⟩ | ⟨hg, hb⟩
     · exact .refused r)
  case beginMaster => cases hb; exact .answered _ (.beginMaster (off_of_gate_begin (.inl rfl) hg))
  case beginSlave a =>
    split at hb <;> cases hb
    next hd => exact .answered _ (.beginSlave a (off_of_gate_begin (.inr rfl) hg) hd)
    · exact .refused _
  case endUnit =>
    split at hb <;> cases hb
    · exact .answered _ (.unchanged _)
    next hm =>
      obtain ⟨hp, hc⟩ := idle_of_gate_endUnit hm hg
      exact .answered _ (.endUnit hm hp hc)
  case setClock f => cases hb; exact .answered _ (.setClock f _ rfl)
  case getRate | getResult | available => cases hb; exact .answered _ (.unchanged _)
  case setPins scl sda => cases hb; exact .answered _ (.setPins scl sda)
  case beginTx a =>
    split at hb <;> cases hb
    · exact .answered _ (.unchanged _)
    next ht => exact .answered _ (.beginTx a (ready_of_gate_master rfl hg) (Bool.eq_false_of_not_eq_true ht))
  case write d =>
    split at hb <;> cases hb
    next hw => exact .answered _ (.write d hw)
    · exact .answered _ (.unchanged _)
  case endTx stop =>
    cases hb
    exact .answered _ (.endTx stop (ready_of_gate_master rfl hg) (transmitting_of_gate_endTx hg))
  case reqFrom a stop q =>
    cases hb
    exact .answered _ (.reqFrom a stop q (ready_of_gate_master rfl hg) (not_transmitting_of_gate_reqFrom hg))
  case read =>
    rcases s.takeByte_cases with ⟨b, hlt, _, e⟩ | ⟨_, e⟩ | ⟨_, _, e⟩ <;> rw [e] at hb <;> cases hb
    · exact .answered _ (.read hlt)
    · exact .answered _ (.unchanged _)
  case peek => split at hb <;> cases hb; exact .answered _ (.unchanged _)
  case onReceive => cases hb; exact .answered _ (.onReceive _)
  case onRequest => cases hb; exact .answered _ (.onRequest _)
  case cbReturn =>
    obtain ⟨u, hu, rfl⟩ := mapNext_next hb
    split at hu
    next hc => exact .answered _ (.cbReturnSends hc hu)
    next hc => cases hu; exact .answered _ (.cbReturn hc)

/-! ### Every instruction, and every step -/

/-- Each row of the opcode table is an event, a command or an action (30 R101 to R103). -/
theorem instr_kind (i : Instr) : isEvent i = true ∨ isCommand i = true ∨ ∃ a : Act, i = a.toInstr := by
  cases i
  case start => exact .inr (.inr ⟨.start, rfl⟩)
  case restart => exact .inr (.inr ⟨.restart, rfl⟩)
  case send b => exact .inr (.inr ⟨.send b, rfl⟩)
  case recv k => exact .inr (.inr ⟨.recv k, rfl⟩)
  case stop => exact .inr (.inr ⟨.stop, rfl⟩)
  case release => exact .inr (.inr ⟨.release, rfl⟩)
  case cbReceive n => exact .inr (.inr ⟨.cbReceive n, rfl⟩)
  case cbRequest => exact .inr (.inr ⟨.cbRequest, rfl⟩)
  case setDiv v => exact .inr (.inr ⟨.setDiv v, rfl⟩)
  case setSaddr a => exact .inr (.inr ⟨.setSaddr a, rfl⟩)
  case enable => exact .inr (.inr ⟨.enable, rfl⟩)
  case disable => exact .inr (.inr ⟨.disable, rfl⟩)
  case evStart | evByte | evArbLost | evStop | evAddrMatch | evTimeout => exact .inl rfl
  all_goals exact .inr (.inl rfl)

/-- The inversion of an instruction, by its kind. -/
theorem exec_cases {i : Instr} {s t : State} (h : exec i s = .next t) :
    (isEvent i = true ∧ EventStep s i t) ∨ (isCommand i = true ∧ CommandStep s i t) ∨
      t = { s with busUnit := t.busUnit, notices := t.notices } := by
  rcases instr_kind i with hi | hi | ⟨a, rfl⟩
  · exact .inl ⟨hi, event_step hi h⟩
  · exact .inr (.inl ⟨hi, command_step hi h⟩)
  · obtain ⟨u, hu, e⟩ := action_frame a s
    cases hu.symm.trans h
    exact .inr (.inr e)

/-- A property of registers and buffers that every event and every accepted command keeps is kept by every step: the
ports a step reads and the responses it gives do not matter to it. -/
theorem step_keeps {P : State → Prop} {s t : State}
    (ports : ∀ {u v : State}, SameRegisters u v → P u → P v)
    (event : ∀ {u v : State} {i : Instr}, u.cfg = s.cfg → EventStep u i v → P u → P v)
    (command : ∀ {u v : State} {i : Instr}, u.cfg = s.cfg → Accepted u i v → P u → P v)
    (h : step s = .next t) (hs : P s) : P t := by
  have hu : P (fetch s).2 := ports (fetch_sameRegisters s) hs
  have hcfg : (fetch s).2.cfg = s.cfg := fetch_cfg s
  rcases step_cases h with rfl | rfl | ⟨i, _, h⟩
  · exact hu
  · exact ports rfl hu
  · rcases exec_cases h with ⟨_, he⟩ | ⟨_, hc⟩ | ha
    · exact event hcfg he hu
    · cases hc with
      | refused r => exact ports rfl hu
      | answered v hv => exact ports rfl (command hcfg hv hu)
    · exact ports (by rw [SameRegisters, ha]) hu

end Sys2Proof.Machine
end

section
/-! The eleven invariants of 10_state.md R38 through every event, every accepted command and so every step: each
operation keeps the bounds and takes one shape of Laws/Safety to another. -/

namespace Sys2Proof.Machine

/-! ### The shape a legal state has -/

/-- A legal state in flight has the shape of a master transaction. -/
theorem State.Inv.flight {s : State} (hi : s.Inv) (h : s.inFlight) : s.MasterFlightShape := by
  obtain ⟨hm, hp⟩ := h
  rcases Inv_shape hi with ⟨hm', _⟩ | ⟨_, hp', _⟩ | hs | ⟨hm', _⟩ | ⟨hm', _⟩
  · simp [hm] at hm'
  · simp [hp', Phase.masterInFlight] at hp
  · exact hs
  · simp [hm] at hm'
  · simp [hm] at hm'

theorem State.Inv.flight_of_ready {s : State} {p : Phase} (hi : s.Inv) (h : s.Ready .master p)
    (hp : p.masterInFlight = true) : s.MasterFlightShape :=
  hi.flight ⟨h.mode, h.phase.symm ▸ hp⟩

/-- A legal addressed slave has the shape of a slave transaction. -/
theorem State.Inv.slaveBusy {s : State} {d : SlaveDir} (hi : s.Inv) (hp : s.phase = .slaveAddressed d) :
    s.SlaveBusyShape := by
  rcases Inv_shape hi with ⟨_, hp', _⟩ | ⟨_, hp', _⟩ | ⟨_, hk, _⟩ | ⟨_, hp', _⟩ | hs
  · simp [hp] at hp'
  · simp [hp] at hp'
  · simpa [hp, Phase.masterInFlight] using flightPair_inFlight hk
  · simp [hp] at hp'
  · exact hs

/-- A legal slave in Idle has the shape of a slave that is not addressed. -/
theorem State.Inv.slaveIdle {s : State} (hi : s.Inv) (hm : s.mode = .slave) (hp : s.phase = .idle) :
    s.SlaveIdleShape := by
  obtain ⟨-, ht, hb⟩ := hi.slave hm
  refine ⟨hm, hp, hi.txn_idle_iff.2 hp, fun hc => ?_, ht, hb, Bool.eq_false_iff.mpr fun hd => ?_⟩
  · simpa [hp] using hi.in_request hc
  · simpa [hm] using (hi.finished hd).1

/-- In a flight the direction of the data phase is the transaction's kind (R38 item 1). -/
theorem State.MasterFlightShape.transmitting {s : State} (h : s.MasterFlightShape)
    (hp : s.phase = .dataPhase .write) : s.txn = .transmitting := by
  obtain ⟨_, hk, _⟩ := h
  rw [hp] at hk
  cases hx : s.txn <;> simp [hx, flightPair] at hk ⊢

theorem State.MasterFlightShape.requesting {s : State} (h : s.MasterFlightShape)
    (hp : s.phase = .dataPhase .read) : s.txn = .requesting := by
  obtain ⟨_, hk, _⟩ := h
  rw [hp] at hk
  cases hx : s.txn <;> simp [hx, flightPair] at hk ⊢

/-- A flight may await its stop, whichever its kind. -/
theorem State.MasterFlightShape.stopping {s : State} (h : s.MasterFlightShape) :
    flightPair s.txn .stopPending = true := by
  obtain ⟨_, hk, _⟩ := h
  cases hx : s.txn <;> simp [hx, flightPair] at hk ⊢

/-- A flight that moves on to a phase of its kind. -/
theorem State.MasterFlightShape.withPhase {s : State} {p : Phase} (h : s.MasterFlightShape)
    (hk : flightPair s.txn p = true) (hs : s.phase ≠ .stopPending) :
    ({ s with phase := p } : State).MasterFlightShape := by
  obtain ⟨hm, _, hc, ht, hb, hd, hl⟩ := h
  exact ⟨hm, hk, hc, ht, hb, hd, fun _ => hl hs⟩

/-! ### The ports -/

theorem State.Inv.of_sameRegisters {s t : State} (h : SameRegisters s t) (hi : s.Inv) : t.Inv := by
  rw [SameRegisters] at h
  rw [h]
  exact Inv_congr hi rfl rfl rfl rfl rfl rfl rfl rfl rfl rfl rfl rfl

/-! ### The end of a master transaction -/

theorem pushReceived_bounds {s : State} (hb : s.Bounds) (b : Byte) : (s.pushReceived b).Bounds := by
  obtain ⟨h1, h2, h3, h4⟩ := hb
  by_cases h : s.rxLen < s.cfg.rxCapacity
  · rw [State.pushReceived_room h]
    exact ⟨h1, h2, Nat.le_succ_of_le h3, h⟩
  · rw [State.pushReceived_full h]
    exact ⟨h1, h2, h3, h4⟩

theorem complete_bounds {s : State} (hb : s.Bounds) : s.complete.Bounds := by
  obtain ⟨h1, h2, h3, h4⟩ := hb
  refine ⟨h1, h2, ?_, h4⟩
  rw [State.complete_rxCur, State.complete_rxLen]
  split <;> omega

/-- Completion leaves an idle master, whether the bus stays held or not. -/
theorem complete_inv {s : State} (hb : s.Bounds) (hm : s.mode = .master) (hc : s.cbActive = .noCallback)
    (ht : s.transmitting = false) : s.complete.Inv :=
  Inv_of_masterIdle (complete_bounds hb) ⟨hm, rfl, rfl, hc, fun h => absurd (ht.symm.trans h) Bool.false_ne_true⟩

section Flight
variable {s : State} (hb : s.Bounds) (hf : s.MasterFlightShape)
include hb hf

theorem forceStop_inv : s.forceStop.Inv := by
  obtain ⟨hm, _, hc, ht, hh, hd, _⟩ := id hf
  rcases s.forceStop_cases with ⟨_, e⟩ | ⟨_, e⟩ <;> rw [e]
  · exact Inv_of_masterFlight hb ⟨hm, hf.stopping, hc, ht, hh, hd, fun h => absurd rfl h⟩
  · exact complete_inv hb hm hc ht

theorem finishOk_inv : s.finishOk.Inv := by
  obtain ⟨hm, _, hc, ht, _⟩ := id hf
  rcases s.finishOk_cases with ⟨_, e⟩ | ⟨_, e⟩ <;> rw [e]
  · exact forceStop_inv (s := { s with status := .success }) hb hf
  · exact complete_inv hb hm hc ht

theorem abort_inv (st : Status) : (s.abort st).Inv := by
  obtain ⟨hm, _, hc, ht, _⟩ := hf
  obtain ⟨h1, h2, h3, h4⟩ := id hb
  rcases s.abort_cases st with ⟨_, _, e⟩ | ⟨_, e⟩ <;> rw [e]
  · exact complete_inv ⟨h1, h2, Nat.le_refl 0, Nat.zero_le _⟩ hm hc ht
  · exact complete_inv hb hm hc ht

theorem raise_inv (e : Status) : (s.raise e).Inv := by
  cases e with
  | success => exact Inv_of_masterFlight hb hf
  | addressNak => exact forceStop_inv (s := { s with status := .addressNak }) hb hf
  | dataNak => exact forceStop_inv (s := { s with status := .dataNak }) hb hf
  | arbitrationLost => exact abort_inv hb hf _
  | timeout => exact abort_inv hb hf _

theorem writeNext_inv {t : State} (hp : s.phase = .dataPhase .write) (h : writeNext s = .next t) : t.Inv := by
  have hs : s.phase ≠ .stopPending := by simp [hp]
  have hk : flightPair s.txn (.dataPhase .write) = true := by rw [hf.transmitting hp]; rfl
  obtain ⟨_, h2, h3, h4⟩ := id hb
  rcases writeNext_cases s with ⟨b, hlt, _, e⟩ | ⟨_, e⟩ | ⟨_, _, e⟩ <;> rw [e] at h <;> cases h
  · exact Inv_of_masterFlight ⟨hlt, h2, h3, h4⟩ (hf.withPhase hk hs)
  · exact finishOk_inv hb hf

theorem readNext_inv (hp : s.phase = .dataPhase .read) : (readNext s).Inv := by
  have hs : s.phase ≠ .stopPending := by simp [hp]
  have hk : flightPair s.txn (.dataPhase .read) = true := by rw [hf.requesting hp]; rfl
  rcases readNext_cases s with ⟨_, e⟩ | ⟨_, e⟩ <;> rw [e]
  · exact finishOk_inv hb hf
  · exact Inv_of_masterFlight hb (hf.withPhase hk hs)

theorem byteArrived_inv (d : Byte) (hp : s.phase = .dataPhase .read) : (byteArrived d s).Inv := by
  have hb' := pushReceived_bounds hb d
  unfold byteArrived
  rw [State.pushReceived_eq] at hb' ⊢
  exact readNext_inv hb' hf hp

end Flight

/-! ### The slave's procedures -/

/-- Sending a byte moves a cursor below its length. -/
theorem slaveSend_inv {s t : State} (hi : s.Inv) (h : slaveSend s = .next t) : t.Inv := by
  obtain ⟨_, h2, h3, h4⟩ := Inv_bounds hi
  have hs : s.Shape := Inv_shape hi
  rcases slaveSend_cases s with ⟨b, hlt, _, e⟩ | ⟨_, e⟩ | ⟨_, _, e⟩ <;> rw [e] at h <;> cases h
  · exact (Inv_iff _).2 ⟨⟨hlt, h2, h3, h4⟩, hs⟩
  · rcases fillByte_cases s with ⟨b, _, e⟩ | ⟨_, e⟩ <;> rw [e] <;>
      exact Inv_congr hi rfl rfl rfl rfl rfl rfl rfl rfl rfl rfl rfl rfl

theorem leaveHandler_inv {s : State} (hi : s.Inv) : s.leaveHandler.Inv := by
  have hb : s.Bounds := Inv_bounds hi
  refine (Inv_iff _).2 ⟨hb, ?_⟩
  rcases Inv_shape hi with ⟨hm, hp, hk, _, h⟩ | ⟨hm, hp, hk, _, h⟩ | ⟨hm, hk, _, h⟩ | ⟨hm, hp, hk, _, h⟩ |
      ⟨hm, hk, ht, hb, hd, hp⟩
  · exact .inl ⟨hm, hp, hk, rfl, h⟩
  · exact .inr (.inl ⟨hm, hp, hk, rfl, h⟩)
  · exact .inr (.inr (.inl ⟨hm, hk, rfl, h⟩))
  · exact .inr (.inr (.inr (.inl ⟨hm, hp, hk, nofun, h⟩)))
  · refine .inr (.inr (.inr (.inr ⟨hm, hk, ht, hb, hd, ?_⟩)))
    exact hp.imp (fun h => ⟨h.1, rfl⟩) (fun h => ⟨h.1, nofun⟩)

/-- The end of a slave transaction leaves a slave that is not addressed, inside its receive handler or in none. -/
theorem slaveDone_inv {s : State} {c : CbActive} (hb : s.Bounds) (hs : s.SlaveBusyShape) (hc : c ≠ .request) :
    ({ slaveDone s with cbActive := c } : State).Inv := by
  obtain ⟨hm, _, ht, hh, hd, _⟩ := hs
  exact Inv_of_slaveIdle hb ⟨hm, rfl, rfl, hc, ht, hh, hd⟩

theorem slaveDeliver_inv {s : State} (hb : s.Bounds) (hs : s.SlaveBusyShape) (hc : s.cbActive = .noCallback) :
    (slaveDeliver s).Inv := by
  unfold slaveDeliver
  split
  · exact Inv_congr (slaveDone_inv hb hs (c := .receive) nofun) rfl rfl rfl rfl rfl rfl rfl rfl rfl rfl rfl rfl
  · exact slaveDone_inv hb hs (c := s.cbActive) (by simp [hc])

theorem slaveReceiveEntry_inv {s : State} (hb : s.Bounds) (hs : s.SlaveIdleShape) (hc : s.cbActive = .noCallback) :
    (slaveReceiveEntry s).Inv := by
  obtain ⟨hm, _, _, _, ht, hh, hd⟩ := hs
  obtain ⟨h1, h2, _, _⟩ := hb
  exact Inv_of_slaveBusy ⟨h1, h2, Nat.le_refl 0, Nat.zero_le _⟩ ⟨hm, rfl, ht, hh, hd, .inl ⟨rfl, hc⟩⟩

/-- Opening a slave transmit leaves an addressed slave, inside its request handler or in none. -/
theorem slaveTransmitOpen_inv {s : State} {c : CbActive} (d : Byte) (hcap : 1 ≤ s.cfg.txCapacity) (hb : s.Bounds)
    (hs : s.SlaveIdleShape) (hc : c ≠ .receive) : ({ slaveTransmitOpen d s with cbActive := c } : State).Inv := by
  obtain ⟨hm, _, _, _, ht, hh, hd⟩ := hs
  obtain ⟨_, _, h3, h4⟩ := hb
  exact Inv_of_slaveBusy ⟨Nat.le_refl 1, hcap, h3, h4⟩ ⟨hm, rfl, ht, hh, hd, .inr ⟨rfl, hc⟩⟩

/-! ### Events and commands -/

theorem EventStep.inv {s t : State} {i : Instr} (hcap : 1 ≤ s.cfg.txCapacity) (h : EventStep s i t) (hi : s.Inv) :
    t.Inv := by
  have hb : s.Bounds := Inv_bounds hi
  cases h with
  | ignored => exact hi
  | held => exact hi.of_sameRegisters rfl
  | addressSent hr _ =>
    have hf := hi.flight_of_ready hr rfl
    obtain ⟨hm, hk, hc, ht, hh, hd, hl⟩ := id hf
    have hlen : 1 ≤ s.txLen := hl (by simp [hr.phase])
    have hk' : flightPair s.txn .addressPhase = true := by
      rw [hr.phase] at hk
      cases hx : s.txn <;> simp [hx, flightPair] at hk ⊢
    exact Inv_of_masterFlight ⟨hlen, hb.2⟩ ⟨hm, hk', hc, ht, hh, hd, fun _ => hlen⟩
  | writeOpened hr hk h =>
    have hf := (hi.flight_of_ready hr rfl).withPhase (p := .dataPhase .write) (by rw [hk]; rfl) (by simp [hr.phase])
    exact writeNext_inv (s := { s with phase := .dataPhase .write }) hb hf rfl h
  | readOpened d hr hk =>
    have hf := (hi.flight_of_ready hr rfl).withPhase (p := .dataPhase .read) (by rw [hk]; rfl) (by simp [hr.phase])
    exact readNext_inv (s := { s with phase := .dataPhase .read }) hb hf rfl
  | addressRefused d hr => exact raise_inv hb (hi.flight_of_ready hr rfl) _
  | byteTaken hr h => exact writeNext_inv hb (hi.flight_of_ready hr rfl) hr.phase h
  | byteRefused d hr => exact raise_inv hb (hi.flight_of_ready hr rfl) _
  | byteArrived ack d hr => exact byteArrived_inv hb (hi.flight_of_ready hr rfl) d hr.phase
  | stopDetected hr =>
    obtain ⟨hm, _, hc, ht, _⟩ := hi.flight_of_ready hr rfl
    exact complete_inv hb hm hc ht
  | arbitrationLost _ hf => exact raise_inv hb (hi.flight hf) _
  | timedOut hf => exact raise_inv hb (hi.flight hf) _
  | delivered _ hr => exact slaveDeliver_inv hb (hi.slaveBusy hr.phase) hr.handler
  | transmitEnded _ hr => exact slaveDone_inv hb (hi.slaveBusy hr.phase) (c := s.cbActive) (by simp [hr.handler])
  | received ack d hr =>
    have hb' := pushReceived_bounds hb d
    rw [State.pushReceived_eq] at hb' ⊢
    exact Inv_of_slaveBusy hb' (hi.slaveBusy hr.phase)
  | nextSent _ h => exact slaveSend_inv hi h
  | writeMatched d hr => exact slaveReceiveEntry_inv hb (hi.slaveIdle hr.mode hr.phase) hr.handler
  | requestEntered d hr _ =>
    have ho := slaveTransmitOpen_inv d hcap hb (hi.slaveIdle hr.mode hr.phase) (c := .request) nofun
    exact Inv_congr ho rfl rfl rfl rfl rfl rfl rfl rfl rfl rfl rfl rfl
  | readAnswered d hr _ h =>
    have ho := slaveTransmitOpen_inv d hcap hb (hi.slaveIdle hr.mode hr.phase) (c := s.cbActive) (by simp [hr.handler])
    exact slaveSend_inv ho h

/-- The lengths and cursors that END draws stay within their bounds (44 R252). -/
theorem scrambleBuffers_bounds (s : State) : s.scrambleBuffers.Bounds :=
  ⟨Nat.le_of_lt_succ (Nat.mod_lt _ (Nat.succ_pos _)), Nat.le_of_lt_succ (Nat.mod_lt _ (Nat.succ_pos _)),
    Nat.le_of_lt_succ (Nat.mod_lt _ (Nat.succ_pos _)), Nat.le_of_lt_succ (Nat.mod_lt _ (Nat.succ_pos _))⟩

/-- A staged byte lengthens TX within its capacity and nothing else of a legal state. -/
theorem stageByte_inv {s : State} (hi : s.Inv) (d : Byte) : (s.stageByte d).1.Inv := by
  by_cases hr : s.txLen < s.cfg.txCapacity
  · obtain ⟨h1, _, h3, h4⟩ := Inv_bounds hi
    rw [State.stageByte_room hr]
    refine (Inv_iff _).2 ⟨⟨Nat.le_succ_of_le h1, hr, h3, h4⟩, ?_⟩
    rcases Inv_shape hi with h | ⟨hm, hp, hk, hc, _⟩ | ⟨hm, hk, hc, ht, hh, hd, _⟩ | h | h
    · exact .inl h
    · exact .inr (.inl ⟨hm, hp, hk, hc, fun _ => Nat.le_add_left 1 _⟩)
    · exact .inr (.inr (.inl ⟨hm, hk, hc, ht, hh, hd, fun _ => Nat.le_add_left 1 _⟩))
    · exact .inr (.inr (.inr (.inl h)))
    · exact .inr (.inr (.inr (.inr h)))
  · rw [State.stageByte_full hr]
    exact hi

/-- Issuing with the address byte staged starts a transaction of either kind (41 R151). -/
theorem startMaster_inv {s : State} {k : Txn} (hk : k = .transmitting ∨ k = .requesting) (hb : s.Bounds)
    (hm : s.mode = .master) (hc : s.cbActive = .noCallback) (ht : s.transmitting = false) (hl : 1 ≤ s.txLen) :
    (startMaster k s).Inv := by
  obtain ⟨_, h2, h3, h4⟩ := hb
  have hk' : flightPair k .startPending = true := by rcases hk with rfl | rfl <;> rfl
  exact Inv_of_masterFlight ⟨Nat.zero_le _, h2, h3, h4⟩ ⟨hm, hk', hc, ht, rfl, rfl, fun _ => hl⟩

theorem Accepted.inv {s t : State} {i : Instr} (hcap : 1 ≤ s.cfg.txCapacity) (h : Accepted s i t) (hi : s.Inv) :
    t.Inv := by
  obtain ⟨h1, h2, h3, h4⟩ := Inv_bounds hi
  have hs : s.Shape := Inv_shape hi
  have empty : 0 ≤ 0 ∧ 0 ≤ s.cfg.txCapacity ∧ 0 ≤ 0 ∧ 0 ≤ s.cfg.rxCapacity :=
    ⟨Nat.le_refl 0, Nat.zero_le _, Nat.le_refl 0, Nat.zero_le _⟩
  cases h with
  | unchanged => exact hi
  | beginMaster _ => exact Inv_of_masterIdle empty ⟨rfl, rfl, rfl, rfl, nofun⟩
  | beginSlave a _ _ => exact Inv_of_slaveIdle empty ⟨rfl, rfl, rfl, nofun, rfl, rfl, rfl⟩
  | endUnit _ hp hc =>
    have hk : s.txn = .idle := hi.txn_idle_iff.2 hp
    refine Inv_of_off (scrambleBuffers_bounds _) ?_
    cases s.busHeld <;> exact ⟨rfl, hp, hk, hc, rfl, rfl, rfl⟩
  | setClock f v _ => exact Inv_congr hi rfl rfl rfl rfl rfl rfl rfl rfl rfl rfl rfl rfl
  | setPins scl sda => exact Inv_congr hi rfl rfl rfl rfl rfl rfl rfl rfl rfl rfl rfl rfl
  | beginTx a hr _ =>
    exact Inv_of_masterIdle ⟨Nat.zero_le _, hcap, h3, h4⟩
      ⟨hr.mode, hr.phase, hi.txn_idle_iff.2 hr.phase, hr.handler, fun _ => Nat.le_refl 1⟩
  | write d _ => exact stageByte_inv hi d
  | endTx stop hr ht =>
    obtain ⟨_, _, hlen⟩ := hi.staging ht
    exact startMaster_inv (.inl rfl) ⟨h1, h2, h3, h4⟩ hr.mode hr.handler rfl hlen
  | reqFrom a stop q hr ht =>
    exact startMaster_inv (.inr rfl) ⟨Nat.zero_le _, hcap, Nat.le_refl 0, Nat.zero_le _⟩ hr.mode hr.handler ht
      (Nat.le_refl 1)
  | read hlt => exact (Inv_iff _).2 ⟨⟨h1, h2, hlt, h4⟩, hs⟩
  | onReceive h => exact Inv_congr hi rfl rfl rfl rfl rfl rfl rfl rfl rfl rfl rfl rfl
  | onRequest h => exact Inv_congr hi rfl rfl rfl rfl rfl rfl rfl rfl rfl rfl rfl rfl
  | cbReturn _ => exact leaveHandler_inv hi
  | cbReturnSends _ h => exact slaveSend_inv (leaveHandler_inv hi) h

/-- A well-formed configuration has room for the address byte (00 R4). -/
theorem one_le_txCapacity_of_wf {c : Config} (h : c.wf = true) : 1 ≤ c.txCapacity := by
  simp only [Config.wf, Config.txCapacityOk, Bool.and_eq_true, decide_eq_true_eq] at h
  omega

/-- Settles O46: every event and every accepted command takes a legal state to a legal state, and the ports do not
matter to the invariants. -/
theorem stepKeepsTheSpecInvariants : Obligations.StepKeepsTheSpecInvariants := by
  unfold Obligations.StepKeepsTheSpecInvariants
  intro s t hwf hi h
  have hcap : ∀ {u : State}, u.cfg = s.cfg → 1 ≤ u.cfg.txCapacity := fun e => e ▸ one_le_txCapacity_of_wf hwf
  exact step_keeps State.Inv.of_sameRegisters (fun e hu => hu.inv (hcap e)) (fun e hu => hu.inv (hcap e)) h hi

end Sys2Proof.Machine
end

section
/-! What an event keeps beside its frame: the flags it never clears, the bytes of both buffers below each length, and
the count of bytes to come (10_state.md R25, R31, R40, R42, 20_memory.md R80, R81). -/

namespace Sys2Proof.Machine

/-! ### The procedures of a master transaction -/

/-- `t` is `s` after a procedure of a master transaction: beside its frame, no flag is cleared and RX does not grow. -/
structure MasterProcedure (s t : State) : Prop where
  frame   : ∃ as, SequencerFrame s t as
  done    : s.done = true → t.done = true
  busHeld : s.busHeld = true → t.busHeld = true
  rxLen   : t.rxLen ≤ s.rxLen

theorem complete_procedure (s : State) : MasterProcedure s s.complete :=
  ⟨⟨_, complete_frame s⟩, fun _ => rfl, id, Nat.le_refl _⟩

theorem forceStop_procedure (s : State) : MasterProcedure s s.forceStop := by
  refine ⟨⟨_, forceStop_frame s⟩, ?_, ?_, ?_⟩ <;>
    rcases s.forceStop_cases with ⟨_, e⟩ | ⟨_, e⟩ <;> simp [e]

theorem finishOk_procedure (s : State) : MasterProcedure s s.finishOk := by
  have hstop := forceStop_procedure { s with status := .success }
  refine ⟨⟨_, finishOk_frame s⟩, ?_, ?_, ?_⟩ <;>
    rcases s.finishOk_cases with ⟨_, e⟩ | ⟨_, e⟩ <;> rw [e]
  exacts [hstop.done, fun _ => rfl, hstop.busHeld, fun _ => rfl, hstop.rxLen, Nat.le_refl _]

theorem abort_procedure (s : State) (st : Status) : MasterProcedure s (s.abort st) := by
  refine ⟨⟨_, abort_frame s st⟩, ?_, ?_, ?_⟩ <;>
    rcases s.abort_cases st with ⟨_, _, e⟩ | ⟨_, e⟩ <;> simp [e]

theorem raise_procedure (s : State) (e : Status) : MasterProcedure s (s.raise e) := by
  obtain ⟨as, hf, -⟩ := raise_frame s e
  suffices h : (s.done = true → (s.raise e).done = true) ∧ (s.busHeld = true → (s.raise e).busHeld = true) ∧
      (s.raise e).rxLen ≤ s.rxLen from ⟨⟨as, hf⟩, h.1, h.2.1, h.2.2⟩
  cases e with
  | success => exact ⟨id, id, Nat.le_refl _⟩
  | addressNak =>
    obtain ⟨_, hd, hb, hr⟩ := forceStop_procedure { s with status := .addressNak }
    exact ⟨hd, hb, hr⟩
  | dataNak =>
    obtain ⟨_, hd, hb, hr⟩ := forceStop_procedure { s with status := .dataNak }
    exact ⟨hd, hb, hr⟩
  | arbitrationLost =>
    obtain ⟨_, hd, hb, hr⟩ := abort_procedure s .arbitrationLost
    exact ⟨hd, hb, hr⟩
  | timeout =>
    obtain ⟨_, hd, hb, hr⟩ := abort_procedure s .timeout
    exact ⟨hd, hb, hr⟩

theorem writeNext_procedure {s t : State} (h : writeNext s = .next t) : MasterProcedure s t := by
  obtain ⟨as, hf, -⟩ := writeNext_frame h
  rcases writeNext_cases s with ⟨b, _, _, e⟩ | ⟨_, e⟩ | ⟨_, _, e⟩ <;> rw [e] at h <;> cases h
  · exact ⟨⟨as, hf⟩, id, id, Nat.le_refl _⟩
  · exact finishOk_procedure s

theorem readNext_procedure (s : State) : MasterProcedure s (readNext s) := by
  obtain ⟨as, hf, -⟩ := readNext_frame s
  rcases readNext_cases s with ⟨_, e⟩ | ⟨_, e⟩ <;> rw [e] at hf ⊢
  · exact finishOk_procedure s
  · exact ⟨⟨as, hf⟩, id, id, Nat.le_refl _⟩

/-! ### No unspecified byte below a length -/

/-- Lengths that do not grow over the same bytes. -/
theorem State.BuffersWritten.of_shorter {s t : State} (h : s.BuffersWritten) (hm : t.mode = s.mode) (htx : t.tx = s.tx)
    (htl : t.txLen ≤ s.txLen) (hrx : t.rx = s.rx) (hrl : t.rxLen ≤ s.rxLen) : t.BuffersWritten where
  tx_written hm' i hi := htx ▸ h.tx_written (hm ▸ hm') i (Nat.lt_of_lt_of_le hi htl)
  rx_written hm' i hi := hrx ▸ h.rx_written (hm ▸ hm') i (Nat.lt_of_lt_of_le hi hrl)

theorem State.BuffersWritten.of_sameRegisters {s t : State} (h : SameRegisters s t) (hw : s.BuffersWritten) :
    t.BuffersWritten := by
  rw [SameRegisters] at h
  rw [h]
  exact hw.of_shorter rfl rfl (Nat.le_refl _) rfl (Nat.le_refl _)

theorem State.BuffersWritten.of_procedure {s t : State} (hw : s.BuffersWritten) (h : MasterProcedure s t) :
    t.BuffersWritten := by
  obtain ⟨⟨as, hf⟩, _, _, hr⟩ := h
  rw [SequencerFrame] at hf
  rw [hf]
  exact hw.of_shorter rfl rfl (Nat.le_refl _) rfl hr

/-- A byte stored at the end of a written stretch lengthens it by one. -/
theorem isSome_write_end {m : Memory} {n i : Nat} {b : Byte} (h : ∀ k, k < n → (Memory.read? m k).isSome = true)
    (hi : i < n + 1) : (Memory.read? (m.write n b) i).isSome = true :=
  Memory.isSome_write <| (Nat.lt_succ_iff_lt_or_eq.mp hi).symm.imp_right (h i)

theorem pushReceived_written {s : State} (hw : s.BuffersWritten) (b : Byte) : (s.pushReceived b).BuffersWritten := by
  by_cases hr : s.rxLen < s.cfg.rxCapacity
  · rw [State.pushReceived_room hr]
    exact ⟨hw.tx_written, fun hm i => isSome_write_end (hw.rx_written hm)⟩
  · rw [State.pushReceived_full hr]
    exact hw

theorem stageByte_written {s : State} (hw : s.BuffersWritten) (b : Byte) : (s.stageByte b).1.BuffersWritten := by
  by_cases hr : s.txLen < s.cfg.txCapacity
  · rw [State.stageByte_room hr]
    exact ⟨fun hm i => isSome_write_end (hw.tx_written hm), hw.rx_written⟩
  · rw [State.stageByte_full hr]
    exact hw

/-- TX restarted with its first byte stored, and RX as it was or emptied. -/
theorem State.BuffersWritten.of_restarted {s t : State} {b : Byte} (hw : s.BuffersWritten) (hm : t.mode = s.mode)
    (htx : t.tx = s.tx.write 0 b) (htl : t.txLen = 1) (hrx : t.rx = s.rx) (hrl : t.rxLen ≤ s.rxLen) :
    t.BuffersWritten where
  tx_written _ i hi := by
    rw [htx]
    exact isSome_write_end (n := 0) nofun (by omega)
  rx_written hm' i hi := hrx ▸ hw.rx_written (hm ▸ hm') i (Nat.lt_of_lt_of_le hi hrl)

theorem slaveSend_written {s t : State} (h : slaveSend s = .next t) (hw : s.BuffersWritten) : t.BuffersWritten := by
  obtain ⟨b, hf⟩ := slaveSend_frame h
  rw [hf]
  exact hw.of_shorter rfl rfl (Nat.le_refl _) rfl (Nat.le_refl _)

theorem slaveDeliver_frame (s : State) : slaveDeliver s = { s with
    phase := .idle, txn := .idle, cbActive := (slaveDeliver s).cbActive
    out := (slaveDeliver s).out, actionPort := (slaveDeliver s).actionPort } := by
  unfold slaveDeliver
  split <;> rfl

theorem EventStep.buffersWritten {s t : State} {i : Instr} (h : EventStep s i t) (hw : s.BuffersWritten) :
    t.BuffersWritten := by
  cases h with
  | ignored => exact hw
  | held => exact hw.of_sameRegisters rfl
  | addressSent _ _ => exact hw.of_shorter rfl rfl (Nat.le_refl _) rfl (Nat.le_refl _)
  | writeOpened _ _ h =>
    have hw' : ({ s with phase := .dataPhase .write } : State).BuffersWritten := ⟨hw.tx_written, hw.rx_written⟩
    exact hw'.of_procedure (writeNext_procedure h)
  | readOpened d _ _ =>
    have hw' : ({ s with phase := .dataPhase .read } : State).BuffersWritten := ⟨hw.tx_written, hw.rx_written⟩
    exact hw'.of_procedure (readNext_procedure _)
  | addressRefused d _ => exact hw.of_procedure (raise_procedure s _)
  | byteTaken _ h => exact hw.of_procedure (writeNext_procedure h)
  | byteRefused d _ => exact hw.of_procedure (raise_procedure s _)
  | byteArrived ack d _ =>
    have hp := pushReceived_written hw d
    have hk : ({ s.pushReceived d with rxRemaining := (s.pushReceived d).rxRemaining - 1 } : State).BuffersWritten :=
      ⟨hp.tx_written, hp.rx_written⟩
    exact hk.of_procedure (readNext_procedure _)
  | stopDetected _ => exact hw.of_procedure (complete_procedure s)
  | arbitrationLost _ _ => exact hw.of_procedure (raise_procedure s _)
  | timedOut _ => exact hw.of_procedure (raise_procedure s _)
  | delivered _ _ =>
    rw [slaveDeliver_frame]
    exact hw.of_shorter rfl rfl (Nat.le_refl _) rfl (Nat.le_refl _)
  | transmitEnded _ _ => exact hw.of_shorter rfl rfl (Nat.le_refl _) rfl (Nat.le_refl _)
  | received ack d _ => exact pushReceived_written hw d
  | nextSent _ h => exact slaveSend_written h hw
  | writeMatched d _ => exact hw.of_shorter rfl rfl (Nat.le_refl _) rfl (Nat.zero_le _)
  | requestEntered d _ _ => exact hw.of_restarted rfl rfl rfl rfl (Nat.le_refl _)
  | readAnswered d _ _ h => exact slaveSend_written h (hw.of_restarted rfl rfl rfl rfl (Nat.le_refl _))

theorem Accepted.buffersWritten {s t : State} {i : Instr} (h : Accepted s i t) (hw : s.BuffersWritten) :
    t.BuffersWritten := by
  cases h with
  | unchanged => exact hw
  | beginMaster _ => exact ⟨fun _ _ => nofun, fun _ _ => nofun⟩
  | beginSlave a _ _ => exact ⟨fun _ _ => nofun, fun _ _ => nofun⟩
  | endUnit _ _ _ => exact ⟨fun hm => absurd rfl hm, fun hm => absurd rfl hm⟩
  | beginTx a _ _ => exact hw.of_restarted rfl rfl rfl rfl (Nat.le_refl _)
  | write d _ => exact stageByte_written hw d
  | reqFrom a stop q _ _ => exact hw.of_restarted rfl rfl rfl rfl (Nat.zero_le _)
  | cbReturnSends _ h => exact slaveSend_written h (hw.of_shorter rfl rfl (Nat.le_refl _) rfl (Nat.le_refl _))
  | _ => exact hw.of_shorter rfl rfl (Nat.le_refl _) rfl (Nat.le_refl _)

/-! ### The count of bytes to be clocked in -/

/-- A phase that awaits no byte of a read, over the same count or a smaller one. -/
theorem State.CountsBytes.of_notReading {s t : State} (h : s.CountsBytes) (hr : t.rxRemaining ≤ s.rxRemaining)
    (hp : t.phase ≠ .dataPhase .read) : t.CountsBytes :=
  ⟨Nat.le_trans hr h.fits, fun hp' => absurd hp' hp⟩

theorem State.CountsBytes.of_same {s t : State} (h : s.CountsBytes) (hr : t.rxRemaining = s.rxRemaining)
    (hp : t.phase = s.phase) : t.CountsBytes :=
  ⟨hr ▸ h.fits, fun hp' => hr ▸ h.awaited (hp ▸ hp')⟩

theorem State.CountsBytes.of_sameRegisters {s t : State} (h : SameRegisters s t) (hc : s.CountsBytes) :
    t.CountsBytes := by
  rw [SameRegisters] at h
  rw [h]
  exact hc.of_same rfl rfl

theorem SequencerFrame.rxRemaining {s t : State} {as : List Act} (h : SequencerFrame s t as) :
    t.rxRemaining = s.rxRemaining :=
  (congrArg State.rxRemaining h :)

theorem MasterProcedure.rxRemaining {s t : State} (h : MasterProcedure s t) : t.rxRemaining = s.rxRemaining := by
  obtain ⟨⟨as, hf⟩, _⟩ := h
  exact hf.rxRemaining

/-- A forced stop awaits the stop or is complete. -/
theorem forceStop_phase (s : State) : s.forceStop.phase = .stopPending ∨ s.forceStop.phase = .idle := by
  rcases s.forceStop_cases with ⟨_, e⟩ | ⟨_, e⟩ <;> simp [e]

theorem finishOk_phase (s : State) : s.finishOk.phase = .stopPending ∨ s.finishOk.phase = .idle := by
  rcases s.finishOk_cases with ⟨_, e⟩ | ⟨_, e⟩ <;> rw [e]
  · exact forceStop_phase _
  · exact .inr rfl

theorem abort_phase (s : State) (st : Status) : (s.abort st).phase = .idle := by
  rcases s.abort_cases st with ⟨_, _, e⟩ | ⟨_, e⟩ <;> rw [e] <;> rfl

/-- An error awaits the stop or is complete (60 R280). -/
theorem raise_phase (s : State) {e : Status} (he : e ≠ .success) :
    (s.raise e).phase = .stopPending ∨ (s.raise e).phase = .idle := by
  cases e with
  | success => exact absurd rfl he
  | addressNak => exact forceStop_phase _
  | dataNak => exact forceStop_phase _
  | arbitrationLost => exact .inr (abort_phase s _)
  | timeout => exact .inr (abort_phase s _)

theorem ne_reading_of_ended {p : Phase} (h : p = .stopPending ∨ p = .idle) : p ≠ .dataPhase .read := by
  rcases h with rfl | rfl <;> simp

theorem raise_countsBytes {s : State} (hc : s.CountsBytes) {e : Status} (he : e ≠ .success) :
    (s.raise e).CountsBytes :=
  hc.of_notReading (Nat.le_of_eq (raise_procedure s e).rxRemaining) (ne_reading_of_ended (raise_phase s he))

theorem finishOk_countsBytes {s : State} (hr : s.rxRemaining ≤ 255) : s.finishOk.CountsBytes :=
  ⟨(finishOk_procedure s).rxRemaining ▸ hr, fun hp => absurd hp (ne_reading_of_ended (finishOk_phase s))⟩

theorem writeNext_countsBytes {s t : State} (hr : s.rxRemaining ≤ 255) (h : writeNext s = .next t) :
    t.CountsBytes := by
  rcases writeNext_cases s with ⟨b, _, _, e⟩ | ⟨_, e⟩ | ⟨_, _, e⟩ <;> rw [e] at h <;> cases h
  · exact ⟨hr, nofun⟩
  · exact finishOk_countsBytes hr

/-- The next byte of a read is asked for only while one is to come (41 R159). -/
theorem readNext_countsBytes {s : State} (hr : s.rxRemaining ≤ 255) : (readNext s).CountsBytes := by
  rcases readNext_cases s with ⟨_, e⟩ | ⟨hone, e⟩ <;> rw [e]
  · exact finishOk_countsBytes hr
  · exact ⟨hr, fun _ => hone⟩

theorem byteArrived_countsBytes {s : State} (hr : s.rxRemaining ≤ 255) (d : Byte) :
    (byteArrived d s).CountsBytes := by
  unfold byteArrived
  rw [State.pushReceived_eq]
  exact readNext_countsBytes (Nat.le_trans (Nat.sub_le _ _) hr)

theorem slaveSend_countsBytes {s t : State} (h : slaveSend s = .next t) (hc : s.CountsBytes) : t.CountsBytes := by
  obtain ⟨b, hf⟩ := slaveSend_frame h
  rw [hf]
  exact hc.of_same rfl rfl

theorem EventStep.countsBytes {s t : State} {i : Instr} (h : EventStep s i t) (hc : s.CountsBytes) :
    t.CountsBytes := by
  cases h with
  | ignored => exact hc
  | held => exact hc.of_same rfl rfl
  | addressSent _ _ => exact ⟨hc.fits, nofun⟩
  | writeOpened _ _ h => exact writeNext_countsBytes (s := { s with phase := .dataPhase .write }) hc.fits h
  | readOpened d _ _ => exact readNext_countsBytes (s := { s with phase := .dataPhase .read }) hc.fits
  | addressRefused d _ => exact raise_countsBytes hc nofun
  | byteTaken _ h => exact writeNext_countsBytes hc.fits h
  | byteRefused d _ => exact raise_countsBytes hc nofun
  | byteArrived ack d _ => exact byteArrived_countsBytes hc.fits d
  | stopDetected _ => exact ⟨hc.fits, nofun⟩
  | arbitrationLost _ _ => exact raise_countsBytes hc nofun
  | timedOut _ => exact raise_countsBytes hc nofun
  | delivered _ _ =>
    rw [slaveDeliver_frame]
    exact ⟨hc.fits, nofun⟩
  | transmitEnded _ _ => exact ⟨hc.fits, nofun⟩
  | received ack d _ =>
    rw [State.pushReceived_eq]
    exact hc.of_same rfl rfl
  | nextSent _ h => exact slaveSend_countsBytes h hc
  | writeMatched d _ => exact ⟨hc.fits, nofun⟩
  | requestEntered d _ _ => exact ⟨hc.fits, nofun⟩
  | readAnswered d _ _ h => exact slaveSend_countsBytes h ⟨hc.fits, nofun⟩

theorem Accepted.countsBytes {s t : State} {i : Instr} (h : Accepted s i t) (hc : s.CountsBytes) : t.CountsBytes := by
  cases h with
  | unchanged => exact hc
  | beginMaster _ => exact ⟨Nat.zero_le _, nofun⟩
  | beginSlave a _ _ => exact ⟨Nat.zero_le _, nofun⟩
  | endUnit _ _ _ => cases s.busHeld <;> exact hc.of_same rfl rfl
  | write d _ =>
    by_cases hr : s.txLen < s.cfg.txCapacity
    · rw [State.stageByte_room hr]; exact hc.of_same rfl rfl
    · rw [State.stageByte_full hr]; exact hc
  | endTx stop _ _ => exact ⟨hc.fits, nofun⟩
  | reqFrom a stop q _ _ => exact ⟨Nat.le_of_lt_succ q.isLt, nofun⟩
  | cbReturnSends _ h => exact slaveSend_countsBytes h (hc.of_same rfl rfl)
  | _ => exact hc.of_same rfl rfl

/-- Settles O48: every event and every accepted command keeps the bytes below both lengths written, and the count of
bytes to come in range; neither needs the invariants of R38. -/
theorem stepKeepsWhatReadsRelyOn : Obligations.StepKeepsWhatReadsRelyOn := by
  unfold Obligations.StepKeepsWhatReadsRelyOn
  intro s t h
  exact
    ⟨step_keeps State.BuffersWritten.of_sameRegisters (fun _ => EventStep.buffersWritten)
      (fun _ => Accepted.buffersWritten) h,
    step_keeps State.CountsBytes.of_sameRegisters (fun _ => EventStep.countsBytes)
      (fun _ => Accepted.countsBytes) h⟩

end Sys2Proof.Machine
end

section
/-! What an instruction emits, and which registers it writes (10_state.md R21, R24, R25, R31 to R37, R40). -/

namespace Sys2Proof.Machine

/-! ### The trace and the action port -/

/-- One list of actions is appended to the trace and to the action port (00 R10; log 13). -/
def Emits (s t : State) : Prop := ∃ as, t.out = s.out ++ as ∧ t.actionPort = s.actionPort ++ as

theorem Emits.nothing (s : State) : Emits s s := ⟨[], by simp⟩

theorem Emits.emit {s t : State} (h : Emits s t) (a : Act) : Emits s (t.emit a) := by
  obtain ⟨as, ho, hp⟩ := h
  exact ⟨as ++ [a], by simp [ho], by simp [hp]⟩

/-- Staging a byte emits nothing. -/
theorem stageByte_emits (s : State) (b : Byte) : Emits s (s.stageByte b).1 := by
  unfold State.stageByte
  split <;> exact .nothing s

theorem Accepted.emits {s t : State} {i : Instr} (h : Accepted s i t) : Emits s t := by
  cases h with
  | beginMaster _ => exact ((Emits.nothing s).emit _).emit _
  | beginSlave a _ _ => exact (((Emits.nothing s).emit _).emit _).emit _
  | endUnit _ _ _ =>
    cases s.busHeld with
    | false => exact (Emits.nothing s).emit _
    | true => exact ((Emits.nothing s).emit _).emit _
  | setClock f v _ => exact (Emits.nothing s).emit _
  | write d _ => exact stageByte_emits s d
  | endTx stop _ _ => exact (Emits.nothing s).emit _
  | reqFrom a stop q _ _ => exact (Emits.nothing s).emit _
  | cbReturnSends _ h =>
    obtain ⟨b, hf⟩ := slaveSend_frame h
    rw [hf]
    exact (Emits.nothing s).emit _
  | _ => exact .nothing s

/-- Settles O43: an event by its frame, an accepted command by its cases; a refusal and an action emit nothing. -/
theorem emittedActionsReachTheActionPort : Obligations.EmittedActionsReachTheActionPort := by
  unfold Obligations.EmittedActionsReachTheActionPort
  intro i s t h
  rcases exec_cases h with ⟨hi, -⟩ | ⟨-, hc⟩ | ha
  · obtain ⟨as, hf, -⟩ := event_frame hi h
    exact ⟨as, (congrArg State.out hf :), (congrArg State.actionPort hf :)⟩
  · cases hc with
    | refused r => exact Emits.nothing s
    | answered v hv => exact hv.emits
  · rw [ha]
    exact Emits.nothing s

/-! ### The flags and the status that an event writes -/

/-- An event by the flags, the status and the byte count it may write: a byte in a master transaction, an error, the
stop awaited, or an event that writes none of them, of which only three may open a handler. -/
inductive EventWrites (s t : State) : Instr → Prop
  | byte (ack : Bool) (d : Byte) {u : State} :
      u = { s with phase := u.phase, rx := u.rx, rxLen := u.rxLen, rxRemaining := u.rxRemaining } →
      MasterProcedure u t → EventWrites s t (.evByte ack d)
  | error {i : Instr} (e : Status) : i = .evArbLost ∨ i = .evTimeout → t = s.raise e → EventWrites s t i
  | stop : t = s.complete → EventWrites s t .evStop
  | other {i : Instr} :
      t = { s with
        phase := t.phase, txn := t.txn, tx := t.tx, txLen := t.txLen, txCur := t.txCur, rx := t.rx
        rxLen := t.rxLen, rxCur := t.rxCur, cbActive := t.cbActive, draws := t.draws, events := t.events
        out := t.out, actionPort := t.actionPort } →
      t.cbActive = s.cbActive ∨ i = .evStart ∨ i = .evStop ∨ (∃ d, i = .evAddrMatch d) → EventWrites s t i

theorem EventStep.writes {s t : State} {i : Instr} (h : EventStep s i t) : EventWrites s t i := by
  cases h with
  | ignored => exact .other rfl (.inl rfl)
  | held => exact .other rfl (.inl rfl)
  | addressSent _ _ => exact .other rfl (.inl rfl)
  | writeOpened _ _ h => exact .byte _ _ (u := { s with phase := .dataPhase .write }) rfl (writeNext_procedure h)
  | readOpened d _ _ => exact .byte _ _ (u := { s with phase := .dataPhase .read }) rfl (readNext_procedure _)
  | addressRefused d _ => exact .byte _ _ rfl (raise_procedure s _)
  | byteTaken _ h => exact .byte _ _ rfl (writeNext_procedure h)
  | byteRefused d _ => exact .byte _ _ rfl (raise_procedure s _)
  | byteArrived ack d _ => exact .byte _ _ (by rw [State.pushReceived_eq]) (readNext_procedure _)
  | stopDetected _ => exact .stop rfl
  | arbitrationLost _ _ => exact .error _ (.inl rfl) rfl
  | timedOut _ => exact .error _ (.inr rfl) rfl
  | delivered hi _ =>
    exact .other (by rw [slaveDeliver_frame]) (.inr (hi.imp_right .inl))
  | transmitEnded _ _ => exact .other rfl (.inl rfl)
  | received ack d _ => exact .other (by rw [State.pushReceived_eq]) (.inl (by rw [State.pushReceived_eq]))
  | nextSent _ h =>
    obtain ⟨b, hf⟩ := slaveSend_frame h
    exact .other (by rw [hf]) (.inl (by rw [hf]))
  | writeMatched d _ => exact .other rfl (.inl rfl)
  | requestEntered d _ _ => exact .other rfl (.inr (.inr (.inr ⟨d, rfl⟩)))
  | readAnswered d _ _ h =>
    obtain ⟨b, hf⟩ := slaveSend_frame h
    exact .other (by rw [hf]; rfl) (.inr (.inr (.inr ⟨d, rfl⟩)))

theorem raise_busHeld (s : State) (e : Status) : (s.raise e).busHeld = s.busHeld := by
  have hstop : ∀ u : State, u.forceStop.busHeld = u.busHeld := fun u => by
    rcases u.forceStop_cases with ⟨_, e⟩ | ⟨_, e⟩ <;> rw [e] <;> rfl
  have habort : ∀ st, (s.abort st).busHeld = s.busHeld := fun st => by
    rcases s.abort_cases st with ⟨_, _, e⟩ | ⟨_, e⟩ <;> rw [e] <;> rfl
  cases e with
  | success => rfl
  | addressNak => exact hstop { s with status := .addressNak }
  | dataNak => exact hstop { s with status := .dataNak }
  | arbitrationLost => exact habort _
  | timeout => exact habort _

theorem MasterProcedure.cbActive {s t : State} (h : MasterProcedure s t) : t.cbActive = s.cbActive := by
  obtain ⟨⟨as, hf⟩, _⟩ := h
  exact (congrArg State.cbActive hf :)

namespace EventWrites
variable {s t : State} {i : Instr} (h : EventWrites s t i)
include h

/-- Only EV_BYTE counts bytes down (10 R31). -/
theorem rxRemaining : t.rxRemaining ≠ s.rxRemaining → ∃ b d, i = .evByte b d := by
  intro hne
  cases h with
  | byte b d _ _ => exact ⟨b, d, rfl⟩
  | error e _ ht => exact absurd (ht ▸ (raise_procedure s e).rxRemaining) hne
  | stop ht => exact absurd (congrArg State.rxRemaining ht :) hne
  | other hf _ => exact absurd (congrArg State.rxRemaining hf :) hne

/-- Only a slave's EV_START, EV_STOP or EV_ADDR_MATCH opens a handler (10 R34). -/
theorem cbActive : t.cbActive ≠ s.cbActive → i = .evStart ∨ i = .evStop ∨ ∃ d, i = .evAddrMatch d := by
  intro hne
  cases h with
  | byte b d hu hp => exact absurd (hp.cbActive.trans (congrArg State.cbActive hu :)) hne
  | error e _ ht => exact absurd (ht ▸ (raise_procedure s e).cbActive) hne
  | stop ht => exact absurd (congrArg State.cbActive ht :) hne
  | other _ hc => exact hc.resolve_left hne

/-- `done` is set by the end of a transaction (10 R40). -/
theorem done_set : s.done = false → t.done = true →
    (∃ b d, i = .evByte b d) ∨ i = .evStop ∨ i = .evArbLost ∨ i = .evTimeout := by
  intro hs ht
  cases h with
  | byte b d _ _ => exact .inl ⟨b, d, rfl⟩
  | error _ hi _ => exact .inr (.inr hi)
  | stop _ => exact .inr (.inl rfl)
  | other hf _ => exact absurd (hs.symm.trans ((congrArg State.done hf).symm.trans ht)) Bool.false_ne_true

/-- No event clears `done` (10 R40). -/
theorem done_kept : s.done = true → t.done = true := by
  intro hs
  cases h with
  | byte b d hu hp => exact hp.done ((congrArg State.done hu).trans hs)
  | error e _ ht => exact ht ▸ (raise_procedure s e).done hs
  | stop ht => exact ht ▸ rfl
  | other hf _ => exact (congrArg State.done hf).trans hs

/-- `bus_held` is set by the end of a data phase, which is EV_BYTE's (10 R40). -/
theorem busHeld_set : s.busHeld = false → t.busHeld = true → ∃ b d, i = .evByte b d := by
  intro hs ht
  have unset : t.busHeld ≠ s.busHeld := by simp [hs, ht]
  cases h with
  | byte b d _ _ => exact ⟨b, d, rfl⟩
  | error e _ ht => exact absurd (ht ▸ raise_busHeld s e) unset
  | stop ht => exact absurd (congrArg State.busHeld ht :) unset
  | other hf _ => exact absurd (congrArg State.busHeld hf :) unset

/-- No event clears `bus_held` (10 R40). -/
theorem busHeld_kept : s.busHeld = true → t.busHeld = true := by
  intro hs
  cases h with
  | byte b d hu hp => exact hp.busHeld ((congrArg State.busHeld hu).trans hs)
  | error e _ ht => exact ht ▸ (raise_procedure s e).busHeld hs
  | stop ht => exact (congrArg State.busHeld ht).trans hs
  | other hf _ => exact (congrArg State.busHeld hf).trans hs

/-- `status` is written where a byte or an error is taken (10 R28). -/
theorem status : t.status ≠ s.status → (∃ b d, i = .evByte b d) ∨ i = .evArbLost ∨ i = .evTimeout := by
  intro hne
  cases h with
  | byte b d _ _ => exact .inl ⟨b, d, rfl⟩
  | error _ hi _ => exact .inr hi
  | stop ht => exact absurd (congrArg State.status ht :) hne
  | other hf _ => exact absurd (congrArg State.status hf :) hne

end EventWrites

/-! ### The registers an instruction writes -/

/-- The registers that no event writes. -/
theorem EventFrame.latches {s t : State} {as : List Act} (h : EventFrame s t as) :
    t.cfg = s.cfg ∧ t.mode = s.mode ∧ t.slaveAddr = s.slaveAddr ∧ t.cbReceive = s.cbReceive ∧
      t.cbRequest = s.cbRequest ∧ t.pinScl = s.pinScl ∧ t.pinSda = s.pinSda ∧ t.clockSetting = s.clockSetting ∧
      t.transmitting = s.transmitting ∧ t.sendStop = s.sendStop ∧ t.responses = s.responses := by
  rw [EventFrame] at h
  rw [h]
  simp

/-- Staging a byte changes TX and its length, nothing else. -/
theorem stageByte_frame (s : State) (b : Byte) :
    (s.stageByte b).1 = { s with tx := (s.stageByte b).1.tx, txLen := (s.stageByte b).1.txLen } := by
  by_cases hr : s.txLen < s.cfg.txCapacity
  · rw [State.stageByte_room hr]
  · rw [State.stageByte_full hr]

/-- Settles O45: an event writes what `EventFrame` and `EventWrites` leave open, an accepted command what its case
names, a refusal the response only and an action its receiver's registers only. -/
theorem registersHaveTheirOwnWriters : Obligations.RegistersHaveTheirOwnWriters := by
  unfold Obligations.RegistersHaveTheirOwnWriters
  intro i s t h
  rcases exec_cases h with ⟨hi, he⟩ | ⟨hi, hc⟩ | ha
  · obtain ⟨as, hf, -⟩ := event_frame hi h
    obtain ⟨ecfg, emode, eaddr, erecv, ereq, escl, esda, eclock, etrans, estop, eresp⟩ := hf.latches
    have w := he.writes
    exact ⟨ecfg, absurd emode, absurd eaddr, absurd erecv, absurd ereq,
      fun hne => hne.elim (absurd escl) (absurd esda), absurd eclock, absurd etrans, absurd estop,
      fun hne => .inr (.inl (w.rxRemaining hne)),
      fun hne => (w.cbActive hne).imp_right (Or.imp_right .inl),
      w.done_set, fun hs ht => absurd ((w.done_kept hs).symm.trans ht) nofun,
      w.busHeld_set, fun hs ht => absurd ((w.busHeld_kept hs).symm.trans ht) nofun,
      fun hne => .inr (.inr ((w.status hne).imp_right (Or.imp_right .inl))), absurd eresp⟩
  · cases hc with
    | refused r => simp +contextual [hi]
    | answered v hv =>
      cases hv with
      | endUnit _ _ _ => cases s.busHeld <;> simp +contextual [State.scrambleBuffers, hi]
      | write d _ =>
        rw [stageByte_frame]
        simp +contextual [hi]
      | cbReturnSends _ hsend =>
        obtain ⟨b, hf⟩ := slaveSend_frame hsend
        rw [hf]
        simp +contextual [hi]
      | _ => simp +contextual [announce, initCommon, startMaster, hi]
  · rw [ha]
    simp +contextual

end Sys2Proof.Machine
end

section
/-! The invariants right after power-on (10_state.md R42, 70_reset_and_hazards.md R300). -/

namespace Sys2Proof.Machine

/-- Settles O8: the values are those that `State.afterPowerOn` writes. -/
theorem powerOnLeavesTheSpecifiedValues : Obligations.PowerOnLeavesTheSpecifiedValues := by
  unfold Obligations.PowerOnLeavesTheSpecifiedValues
  intro c
  simp [State.afterPowerOn]

theorem afterPowerOn_inv (c : Config) : (State.afterPowerOn c).Inv :=
  Inv_of_off ⟨Nat.le_refl 0, Nat.zero_le _, Nat.le_refl 0, Nat.zero_le _⟩ ⟨rfl, rfl, rfl, rfl, rfl, rfl, rfl⟩

theorem afterPowerOn_buffersWf (c : Config) : (State.afterPowerOn c).BuffersWf :=
  ⟨(afterPowerOn_memory_wf c).1, (afterPowerOn_memory_wf c).2, rfl, rfl⟩

theorem afterPowerOn_buffersWritten (c : Config) : (State.afterPowerOn c).BuffersWritten :=
  ⟨fun hm => absurd rfl hm, fun hm => absurd rfl hm⟩

theorem afterPowerOn_countsBytes (c : Config) : (State.afterPowerOn c).CountsBytes :=
  ⟨Nat.zero_le _, nofun⟩

/-- A byte cut to `bits` bits, as power-on cuts both divider registers (10 R42; log 7). -/
theorem toNat_ofNat_mod_two_pow_lt (n bits : Nat) : (BitVec.ofNat 8 (n % 2 ^ bits)).toNat < 2 ^ bits := by
  rw [BitVec.toNat_ofNat]
  exact Nat.lt_of_le_of_lt (Nat.mod_le _ _) (Nat.mod_lt _ (Nat.two_pow_pos bits))

theorem afterPowerOn_actionsWf (c : Config) : (State.afterPowerOn c).ActionsWf where
  out_wf := nofun
  port_wf := nofun
  setting_wf := toNat_ofNat_mod_two_pow_lt _ _
  divider_wf := toNat_ofNat_mod_two_pow_lt _ _

/-- Settles O9, one invariant at a time; none of them asks for a well-formed configuration. -/
theorem powerOnMeetsEveryInvariant : Obligations.PowerOnMeetsEveryInvariant := by
  unfold Obligations.PowerOnMeetsEveryInvariant
  intro c _
  exact ⟨afterPowerOn_inv c, afterPowerOn_buffersWf c, afterPowerOn_buffersWritten c, afterPowerOn_countsBytes c,
    afterPowerOn_actionsWf c⟩

end Sys2Proof.Machine
end

section
/-! What an instruction stores in the two buffers: at most one byte, at the index that `txStore` and `rxStore` compute
(20_memory.md R61), so that both buffers stay in canonical form and inside their capacities (R60, R71); and what a list
of staged bytes leaves in TX (R63, R64). -/

namespace Sys2Proof.Machine

/-! ### A store at an index, if there is one -/

/-- `m'` is `m`, or `m` with one byte stored at the index `o` names. -/
def StoresAt (o : Option Nat) (m m' : Memory) : Prop :=
  m' = m ∨ ∃ i b, o = some i ∧ m' = m.write i b

theorem StoresAt.kept {o : Option Nat} {m m' : Memory} (h : m' = m) : StoresAt o m m' := .inl h

theorem StoresAt.stored {o : Option Nat} {m m' : Memory} {i : Nat} {b : Byte} (ho : o = some i)
    (h : m' = m.write i b) : StoresAt o m m' :=
  .inr ⟨i, b, ho, h⟩

theorem StoresAt.read?_other {o : Option Nat} {m m' : Memory} {k : Nat} (h : StoresAt o m m') (hk : o ≠ some k) :
    Memory.read? m' k = Memory.read? m k := by
  rcases h with rfl | ⟨i, b, rfl, rfl⟩
  · rfl
  · exact Memory.read?_write_other m b fun hki => hk (congrArg some hki.symm)

theorem StoresAt.wf {o : Option Nat} {m m' : Memory} (h : StoresAt o m m') (hm : Memory.wf m = true) :
    Memory.wf m' = true := by
  rcases h with rfl | ⟨i, b, rfl, rfl⟩
  · exact hm
  · exact Memory.wf_write i b hm

theorem StoresAt.below {o : Option Nat} {m m' : Memory} {n : Nat} (h : StoresAt o m m')
    (ho : ∀ k, o = some k → k < n) (hm : Memory.below n m = true) : Memory.below n m' = true := by
  rcases h with rfl | ⟨i, b, rfl, rfl⟩
  · exact hm
  · exact Memory.below_write b (ho i rfl) hm

/-! ### The index stored to -/

/-- TX is stored to at the address byte's index or where a staged byte fits (20 R71). -/
theorem txStore_lt {i : Instr} {s : State} {k : Nat} (hcap : 1 ≤ s.cfg.txCapacity) (h : txStore i s = some k) :
    k < s.cfg.txCapacity := by
  unfold txStore at h
  split at h
  case h_5 => cases h
  all_goals
    split at h
    next hg => cases h; omega
    next => cases h

/-- RX is stored to where a received byte fits (20 R71). -/
theorem rxStore_lt {i : Instr} {s : State} {k : Nat} (h : rxStore i s = some k) : k < s.cfg.rxCapacity := by
  unfold rxStore at h
  split at h
  case h_3 => cases h
  all_goals
    split at h
    next hg => cases h; exact hg.2
    next => cases h

/-- Receiving a byte stores it at the end of RX while it fits. -/
theorem pushReceived_stores {i : Instr} {s : State} (b : Byte)
    (ho : s.rxLen < s.cfg.rxCapacity → rxStore i s = some s.rxLen) :
    StoresAt (rxStore i s) s.rx (s.pushReceived b).rx := by
  by_cases hr : s.rxLen < s.cfg.rxCapacity
  · exact .stored (ho hr) (congrArg State.rx (State.pushReceived_room hr))
  · exact .kept (congrArg State.rx (State.pushReceived_full hr))

/-! ### Events -/

/-- `t` holds the bytes of `s` in both buffers. -/
def SameBytes (s t : State) : Prop := t.tx = s.tx ∧ t.rx = s.rx

theorem MasterProcedure.sameBytes {s t : State} (h : MasterProcedure s t) : SameBytes s t := by
  obtain ⟨⟨as, hf⟩, _⟩ := h
  exact ⟨(congrArg State.tx hf :), (congrArg State.rx hf :)⟩

theorem slaveSend_sameBytes {s t : State} (h : slaveSend s = .next t) : SameBytes s t := by
  obtain ⟨b, hf⟩ := slaveSend_frame h
  exact ⟨(congrArg State.tx hf :), (congrArg State.rx hf :)⟩

theorem slaveDeliver_sameBytes (s : State) : SameBytes s (slaveDeliver s) :=
  ⟨(congrArg State.tx (slaveDeliver_frame s) :), (congrArg State.rx (slaveDeliver_frame s) :)⟩

/-- An event stores nothing, the byte a master or a slave receives, or the address byte a slave saw. -/
theorem EventStep.bytes {s t : State} {i : Instr} (h : EventStep s i t) :
    SameBytes s t ∨
    (∃ ack d, i = .evByte ack d ∧ (s.Ready .master (.dataPhase .read) ∨ s.Ready .slave (.slaveAddressed .receive)) ∧
      t.tx = s.tx ∧ t.rx = (s.pushReceived d).rx) ∨
    (∃ d, i = .evAddrMatch d ∧ s.Ready .slave .idle ∧ t.tx = s.tx.write 0 d ∧ t.rx = s.rx) := by
  cases h with
  | ignored | held => exact .inl ⟨rfl, rfl⟩
  | addressSent _ _ => exact .inl ⟨rfl, rfl⟩
  | writeOpened _ _ h => exact .inl (writeNext_procedure h).sameBytes
  | readOpened d _ _ => exact .inl (readNext_procedure { s with phase := .dataPhase .read }).sameBytes
  | addressRefused d _ => exact .inl (raise_procedure s _).sameBytes
  | byteTaken _ h => exact .inl (writeNext_procedure h).sameBytes
  | byteRefused d _ => exact .inl (raise_procedure s _).sameBytes
  | byteArrived ack d hr =>
    obtain ⟨htx, hrx⟩ := (readNext_procedure
      { s.pushReceived d with rxRemaining := (s.pushReceived d).rxRemaining - 1 }).sameBytes
    exact .inr (.inl ⟨ack, d, rfl, .inl hr, htx.trans (congrArg State.tx (State.pushReceived_eq s d) :), hrx⟩)
  | stopDetected _ => exact .inl ⟨rfl, rfl⟩
  | arbitrationLost _ _ => exact .inl (raise_procedure s _).sameBytes
  | timedOut _ => exact .inl (raise_procedure s _).sameBytes
  | delivered _ _ => exact .inl (slaveDeliver_sameBytes s)
  | transmitEnded _ _ => exact .inl ⟨rfl, rfl⟩
  | received ack d hr =>
    exact .inr (.inl ⟨ack, d, rfl, .inr hr, (congrArg State.tx (State.pushReceived_eq s d) :), rfl⟩)
  | nextSent _ h => exact .inl (slaveSend_sameBytes h)
  | writeMatched d _ => exact .inl ⟨rfl, rfl⟩
  | requestEntered d hr _ => exact .inr (.inr ⟨d, rfl, hr, rfl, rfl⟩)
  | readAnswered d hr _ h =>
    obtain ⟨htx, hrx⟩ := slaveSend_sameBytes h
    exact .inr (.inr ⟨d, rfl, hr, htx, hrx⟩)

/-- An address match opens a slave transmit only for this slave's own address with the read bit (42 R191). -/
theorem evAddrMatch_sameBytes_of_not_read {s t : State} {d : Byte} (hr : s.Ready .slave .idle)
    (hd : ¬(addressOf d = s.slaveAddr ∧ readBit d = true)) (h : exec (.evAddrMatch d) s = .next t) :
    SameBytes s t := by
  obtain ⟨hm, hc, hp⟩ := hr
  simp only [exec, execEvAddrMatch, hm, hc, hp, ne_eq, not_true_eq_false, if_false] at h
  split at h
  · cases h; exact ⟨rfl, rfl⟩
  next ha =>
    rw [if_neg fun hread => hd ⟨not_not.mp ha, hread⟩] at h
    cases h; exact ⟨rfl, rfl⟩

theorem event_stores {i : Instr} {s t : State} (hi : isEvent i = true) (h : exec i s = .next t) :
    StoresAt (txStore i s) s.tx t.tx ∧ StoresAt (rxStore i s) s.rx t.rx := by
  rcases (event_step hi h).bytes with ⟨htx, hrx⟩ | ⟨ack, d, rfl, hr, htx, hrx⟩ | ⟨d, rfl, hr, htx, hrx⟩
  · exact ⟨.kept htx, .kept hrx⟩
  · refine ⟨.kept htx, hrx ▸ pushReceived_stores d fun hroom => ?_⟩
    rcases hr with ⟨hm, hc, hp⟩ | ⟨hm, hc, hp⟩ <;> simp [rxStore, hm, hc, hp, hroom]
  · by_cases hd : addressOf d = s.slaveAddr ∧ readBit d = true
    · obtain ⟨hm, hc, hp⟩ := hr
      exact ⟨.stored (by simp [txStore, hm, hc, hp, hd]) htx, .kept hrx⟩
    · obtain ⟨htx', hrx'⟩ := evAddrMatch_sameBytes_of_not_read hr hd h
      exact ⟨.kept htx', .kept hrx'⟩

/-! ### Commands -/

/-- Staging a byte stores it at the end of TX while it fits. -/
theorem stageByte_stores {s : State} {o : Option Nat} (b : Byte)
    (ho : s.txLen < s.cfg.txCapacity → o = some s.txLen) : StoresAt o s.tx (s.stageByte b).1.tx := by
  by_cases hr : s.txLen < s.cfg.txCapacity
  · exact .stored (ho hr) (congrArg (fun r => r.1.tx) (State.stageByte_room hr))
  · exact .kept (congrArg (fun r => r.1.tx) (State.stageByte_full hr))

/-- A command past the gate stores nothing in RX, and in TX an address byte or a staged byte. -/
theorem Accepted.stores {i : Instr} {c : Command} {s t : State} (h : Accepted s i t) (hc : commandOf? i = some c)
    (hg : gate c s = none) (hi : i ≠ .endUnit) : StoresAt (txStore i s) s.tx t.tx ∧ t.rx = s.rx := by
  cases h with
  | endUnit _ _ _ => exact absurd rfl hi
  | beginTx a _ ht =>
    cases hc
    exact ⟨.stored (if_pos ⟨hg, ht⟩) rfl, rfl⟩
  | write d hw =>
    cases hc
    exact ⟨stageByte_stores d fun hroom => if_pos ⟨hg, hw, hroom⟩, (congrArg State.rx (stageByte_frame s d) :)⟩
  | reqFrom a stop q _ _ =>
    cases hc
    exact ⟨.stored (if_pos hg) rfl, rfl⟩
  | cbReturnSends _ h =>
    obtain ⟨htx, hrx⟩ := slaveSend_sameBytes h
    exact ⟨.kept htx, hrx⟩
  | _ => exact ⟨.kept rfl, rfl⟩

theorem command_stores {i : Instr} {s t : State} (hi : isCommand i = true) (hne : i ≠ .endUnit)
    (h : exec i s = .next t) : StoresAt (txStore i s) s.tx t.tx ∧ StoresAt (rxStore i s) s.rx t.rx := by
  obtain ⟨c, hc⟩ := Option.isSome_iff_exists.mp hi
  rcases command_cases hc h with ⟨r, _, rfl⟩ | hg
  · exact ⟨.kept rfl, .kept rfl⟩
  · cases command_step hi h with
    | refused r => exact ⟨.kept rfl, .kept rfl⟩
    | answered v hv =>
      obtain ⟨htx, hrx⟩ := hv.stores hc hg hne
      exact ⟨htx, .kept hrx⟩

/-- END empties both lists of written bytes or, in Off or refused, leaves them (44 R252; log 8). -/
theorem endUnit_bytes {s t : State} (h : exec .endUnit s = .next t) :
    SameBytes s t ∨ (t.tx = [] ∧ t.rx = []) := by
  cases command_step rfl h with
  | refused r => exact .inl ⟨rfl, rfl⟩
  | answered v hv =>
    cases hv with
    | unchanged => exact .inl ⟨rfl, rfl⟩
    | endUnit _ _ _ => exact .inr ⟨rfl, rfl⟩

/-! ### Every instruction -/

/-- Every instruction but END stores at most one byte in each buffer, at the computed index. -/
theorem exec_stores {i : Instr} {s t : State} (hne : i ≠ .endUnit) (h : exec i s = .next t) :
    StoresAt (txStore i s) s.tx t.tx ∧ StoresAt (rxStore i s) s.rx t.rx := by
  rcases exec_cases h with ⟨hi, -⟩ | ⟨hi, -⟩ | ha
  · exact event_stores hi h
  · exact command_stores hi hne h
  · exact ⟨.kept (congrArg State.tx ha :), .kept (congrArg State.rx ha :)⟩

/-- Settles O44: what is stored is at the computed index, so every other index reads as before. -/
theorem storesTouchOneByteOnly : Obligations.StoresTouchOneByteOnly := by
  unfold Obligations.StoresTouchOneByteOnly
  intro i s t h hne
  obtain ⟨htx, hrx⟩ := exec_stores hne h
  exact ⟨fun k => htx.read?_other, fun k => hrx.read?_other⟩

/-! ### The canonical form, instruction by instruction and step by step -/

theorem exec_cfg {i : Instr} {s t : State} (h : exec i s = .next t) : t.cfg = s.cfg :=
  (registersHaveTheirOwnWriters i s t h).1

/-- Buffers with the same bytes under the same configuration. -/
theorem State.BuffersWf.of_sameBytes {s t : State} (hs : s.BuffersWf) (hcfg : t.cfg = s.cfg) (h : SameBytes s t) :
    t.BuffersWf := by
  obtain ⟨htx, hrx⟩ := h
  exact ⟨htx ▸ hs.tx_wf, hrx ▸ hs.rx_wf, by rw [hcfg, htx]; exact hs.tx_below, by rw [hcfg, hrx]; exact hs.rx_below⟩

theorem State.BuffersWf.of_empty {s : State} (htx : s.tx = []) (hrx : s.rx = []) : s.BuffersWf := by
  constructor <;> simp [htx, hrx, Memory.wf, Memory.below]

theorem exec_buffersWf {i : Instr} {s t : State} (hcap : 1 ≤ s.cfg.txCapacity) (h : exec i s = .next t)
    (hs : s.BuffersWf) : t.BuffersWf := by
  have hcfg : t.cfg = s.cfg := exec_cfg h
  by_cases hne : i = .endUnit
  · subst hne
    rcases endUnit_bytes h with hb | ⟨htx, hrx⟩
    · exact hs.of_sameBytes hcfg hb
    · exact .of_empty htx hrx
  · obtain ⟨htx, hrx⟩ := exec_stores hne h
    refine ⟨htx.wf hs.tx_wf, hrx.wf hs.rx_wf, ?_, ?_⟩ <;> rw [hcfg]
    · exact htx.below (fun _ => txStore_lt hcap) hs.tx_below
    · exact hrx.below (fun _ => rxStore_lt) hs.rx_below

/-- Settles O47: fetching leaves both buffers alone, a store keeps the canonical form and goes to an index inside the
buffer, and END leaves empty lists. -/
theorem stepKeepsTheBuffersCanonical : Obligations.StepKeepsTheBuffersCanonical := by
  unfold Obligations.StepKeepsTheBuffersCanonical
  intro s t hwf hs h
  have hfetch : (fetch s).2.BuffersWf := hs.of_sameBytes (fetch_cfg s) ⟨fetch_tx s, fetch_rx s⟩
  rcases step_cases h with rfl | rfl | ⟨i, _, h⟩
  · exact hfetch
  · exact hfetch.of_sameBytes rfl ⟨rfl, rfl⟩
  · exact exec_buffersWf (by rw [fetch_cfg]; exact one_le_txCapacity_of_wf hwf) h hfetch

/-! ### Staging a list of bytes -/

/-- `bs` written one after another from index `i` on. -/
def Memory.writeFrom (m : Memory) (i : Nat) : List Byte → Memory
  | [] => m
  | b :: rest => Memory.writeFrom (m.write i b) (i + 1) rest

theorem Memory.read?_writeFrom_outside {m : Memory} {i a : Nat} {bs : List Byte}
    (h : ¬(i ≤ a ∧ a < i + bs.length)) : Memory.read? (m.writeFrom i bs) a = Memory.read? m a := by
  induction bs generalizing m i with
  | nil => rfl
  | cons b rest ih =>
    rw [List.length_cons] at h
    calc Memory.read? ((m.write i b).writeFrom (i + 1) rest) a
        = Memory.read? (m.write i b) a := ih (by omega)
      _ = Memory.read? m a := Memory.read?_write_other m b (by omega)

theorem Memory.read?_writeFrom_inside {m : Memory} {i k : Nat} {bs : List Byte} (h : k < bs.length) :
    Memory.read? (m.writeFrom i bs) (i + k) = bs[k]? := by
  induction bs generalizing m i k with
  | nil => exact absurd h (Nat.not_lt_zero k)
  | cons b rest ih =>
    cases k with
    | zero =>
      calc Memory.read? ((m.write i b).writeFrom (i + 1) rest) i
          = Memory.read? (m.write i b) i := Memory.read?_writeFrom_outside (by omega)
        _ = some b := Memory.read?_write_same m i b
    | succ k =>
      have e : i + (k + 1) = i + 1 + k := by omega
      rw [e]
      exact ih (Nat.lt_of_succ_lt_succ h)

/-- How many of `bs` fit in TX behind the bytes staged already (20 R64). -/
def State.fitting (s : State) (bs : List Byte) : Nat := min bs.length (s.cfg.txCapacity - s.txLen)

/-- `stageBytes` writes the bytes that fit, from the end of TX on, and counts them (20 R63, R64). -/
theorem stageBytes_eq (s : State) (bs : List Byte) :
    s.stageBytes bs =
      ({ s with tx := s.tx.writeFrom s.txLen (bs.take (s.fitting bs)), txLen := s.txLen + s.fitting bs },
        s.fitting bs) := by
  induction bs generalizing s with
  | nil => simp [State.stageBytes, State.fitting, Memory.writeFrom]
  | cons b rest ih =>
    by_cases hr : s.txLen < s.cfg.txCapacity
    · have hfit : s.fitting (b :: rest) = (s.stageByte b).1.fitting rest + 1 := by
        simp only [State.fitting, State.stageByte_room hr, List.length_cons]
        omega
      rw [State.stageBytes, ih, hfit, State.stageByte_room hr, List.take_succ_cons]
      simp only [Memory.writeFrom, Nat.add_assoc, Nat.add_comm 1]
    · have hfit : ∀ cs, s.fitting cs = 0 := fun cs => by
        simp only [State.fitting]
        omega
      rw [State.stageBytes, ih, hfit, State.stageByte_full hr]
      simp [hfit, Memory.writeFrom]

/-- Settles O15: by the closed form of `stageBytes`, whose bytes are read back inside and outside the stretch written. -/
theorem stageBytesKeepsThePrefixThatFits : Obligations.StageBytesKeepsThePrefixThatFits := by
  unfold Obligations.StageBytesKeepsThePrefixThatFits
  intro s bs _
  have hlen : (bs.take (s.fitting bs)).length = s.fitting bs := List.length_take_of_le (Nat.min_le_left _ _)
  rw [stageBytes_eq]
  refine ⟨rfl, rfl, fun k hk => ?_, fun a ha => ?_⟩
  · calc Memory.read? (s.tx.writeFrom s.txLen (bs.take (s.fitting bs))) (s.txLen + k)
        = (bs.take (s.fitting bs))[k]? := Memory.read?_writeFrom_inside (hlen.symm ▸ hk)
      _ = bs[k]? := List.getElem?_take_of_lt hk
  · exact Memory.read?_writeFrom_outside (hlen.symm ▸ ha)

end Sys2Proof.Machine
end

section
/-! The encoder and the decoder (30_encoding.md R90 to R94, R101 to R104, R109, R110): each inverts the other, and what
decodes is what the tables of matches and masks select. -/

namespace Sys2Proof

/-! ### Decoding what was encoded -/

/-- Settles O1, constructor by constructor. -/
theorem decodeInvertsEncode : Obligations.DecodeInvertsEncode := by
  unfold Obligations.DecodeInvertsEncode
  intro i
  cases i with
  | beginMaster => exact Laws.RoundTrip.beginMaster
  | beginSlave a => exact Laws.RoundTrip.beginSlave a
  | endUnit => exact Laws.RoundTrip.endUnit
  | setClock f => exact Laws.RoundTrip.setClock f
  | getRate => exact Laws.RoundTrip.getRate
  | setPins scl sda => exact Laws.RoundTrip.setPins scl sda
  | beginTx a => exact Laws.RoundTrip.beginTx a
  | write d => exact Laws.RoundTrip.write d
  | endTx st => exact Laws.RoundTrip.endTx st
  | reqFrom a st q => exact Laws.RoundTrip.reqFrom a st q
  | getResult => exact Laws.RoundTrip.getResult
  | available => exact Laws.RoundTrip.available
  | read => exact Laws.RoundTrip.read
  | peek => exact Laws.RoundTrip.peek
  | onReceive h => exact Laws.RoundTrip.onReceive h
  | onRequest h => exact Laws.RoundTrip.onRequest h
  | cbReturn => exact Laws.RoundTrip.cbReturn
  | evStart => exact Laws.RoundTrip.evStart
  | evByte ack d => exact Laws.RoundTrip.evByte ack d
  | evArbLost => exact Laws.RoundTrip.evArbLost
  | evStop => exact Laws.RoundTrip.evStop
  | evAddrMatch d => exact Laws.RoundTrip.evAddrMatch d
  | evTimeout => exact Laws.RoundTrip.evTimeout
  | start => exact Laws.RoundTrip.start
  | restart => exact Laws.RoundTrip.restart
  | send d => exact Laws.RoundTrip.send d
  | recv ack => exact Laws.RoundTrip.recv ack
  | stop => exact Laws.RoundTrip.stop
  | release => exact Laws.RoundTrip.release
  | cbReceive n => exact Laws.RoundTrip.cbReceive n
  | cbRequest => exact Laws.RoundTrip.cbRequest
  | setDiv v => exact Laws.RoundTrip.setDiv v
  | setSaddr a => exact Laws.RoundTrip.setSaddr a
  | enable => exact Laws.RoundTrip.enable
  | disable => exact Laws.RoundTrip.disable

/-! ### A word out of its fields -/

/-- Two adjacent fields are one. -/
theorem field_append {n : Nat} (w : BitVec n) (lo a b : Nat) :
    field w (lo + b) a ++ field w lo b = field w lo (a + b) :=
  BitVec.extractLsb'_append_extractLsb'_eq_extractLsb' rfl

/-- One bit is the field of that bit. -/
theorem bit1_bitAt {n : Nat} (w : BitVec n) (k : Nat) : bit1 (bitAt w k) = field w k 1 := by
  ext i hi
  obtain rfl : i = 0 := by omega
  simp [bit1, bitAt, field]

theorem cmdWord_of_fields {w : CmdWord} {op : BitVec 8} {operands : BitVec 24} (hop : field w 24 8 = op)
    (hr : field w 0 24 = operands) : cmdWord op operands = .cmd w := by
  subst hop hr
  exact congrArg PortWord.cmd ((field_append w 0 8 24).trans (field_self w))

theorem evtWord_of_fields {w : EvtWord} {code : BitVec 4} {rest : BitVec 12} (hc : field w 12 4 = code)
    (hr : field w 0 12 = rest) : evtWord code rest = .evt w := by
  subst hc hr
  exact congrArg PortWord.evt ((field_append w 0 4 12).trans (field_self w))

theorem actWord_of_fields {w : ActWord} {code : BitVec 4} {rest : BitVec 12} (hc : field w 12 4 = code)
    (hr : field w 0 12 = rest) : actWord code rest = .act w := by
  subst hc hr
  exact congrArg PortWord.act ((field_append w 0 4 12).trans (field_self w))

section Areas
variable {n : Nat} {w : BitVec n}

/-- Reserved bits above one operand. -/
theorem operandArea_of_reserved {lo len : Nat} (hz : field w lo len = 0#len) :
    field w 0 (len + lo) = 0#len ++ field w 0 lo := by
  rw [← hz, ← field_append, Nat.zero_add]

theorem stopArea_of_reserved (hz : field w 1 23 = 0#23) : field w 0 24 = 0#23 ++ bit1 (bitAt w 0) := by
  rw [← hz, bit1_bitAt, field_append w 0 23 1]

theorem pinArea_of_reserved (hz : field w 16 8 = 0#8) : field w 0 24 = 0#8 ++ field w 8 8 ++ field w 0 8 := by
  rw [← hz, field_append w 8 8 8, field_append w 0 16 8]

theorem reqArea_of_reserved (hz : field w 16 8 = 0#8) :
    field w 0 24 = 0#8 ++ field w 8 8 ++ bit1 (bitAt w 7) ++ field w 0 7 := by
  rw [← hz, bit1_bitAt, field_append w 8 8 8, field_append w 7 16 1, field_append w 0 17 7]

theorem byteEvent_of_reserved (hz : field w 9 3 = 0#3) :
    field w 0 12 = 0#3 ++ bit1 (bitAt w 8) ++ field w 0 8 := by
  rw [← hz, bit1_bitAt, field_append w 8 3 1, field_append w 0 4 8]

theorem ackShort_of_reserved (hz : field w 9 3 = 0#3) (hz' : field w 0 8 = 0#8) :
    field w 0 12 = 0#3 ++ bit1 (bitAt w 8) ++ 0#8 := by
  rw [byteEvent_of_reserved hz, hz']

end Areas

/-! ### Encoding what was decoded -/

/-- What `whenZero` gives is its instruction, and only where the reserved bits are zero. -/
theorem whenZero_eq_instr_iff {n : Nat} {reserved : BitVec n} {e : DecodeError} {i j : Instr} :
    whenZero reserved e i = .instr j ↔ reserved = 0#n ∧ i = j := by
  by_cases hz : reserved = 0#n <;> simp [whenZero, hz]

section Rows
variable {n m : Nat} {code c : BitVec n} {reserved : BitVec m} {e : DecodeError} {d rest : Decoded} {i j : Instr}
  {p : PortWord}

/-- The decoder asks the row of the code `c`, or the rows after it. -/
theorem encode_of_code (h : (if code = c then d else rest) = .instr j)
    (hd : code = c → d = .instr j → encode j = p) (hrest : rest = .instr j → encode j = p) : encode j = p := by
  split at h
  next hc => exact hd hc h
  next => exact hrest h

/-- A row whose operands fill the word. -/
theorem encode_of_fullRow (h : (if code = c then .instr i else rest) = .instr j) (hrow : code = c → encode i = p)
    (hrest : rest = .instr j → encode j = p) : encode j = p := by
  refine encode_of_code h (fun hc h => ?_) hrest
  cases h
  exact hrow hc

/-- A row with reserved bits. -/
theorem encode_of_row (h : (if code = c then whenZero reserved e i else rest) = .instr j)
    (hrow : code = c → reserved = 0#m → encode i = p) (hrest : rest = .instr j → encode j = p) : encode j = p := by
  refine encode_of_code h (fun hc h => ?_) hrest
  obtain ⟨hz, rfl⟩ := whenZero_eq_instr_iff.mp h
  exact hrow hc hz

end Rows

theorem encode_of_decodeCmd {w : CmdWord} {i : Instr} (h : decodeCmd w = .instr i) : encode i = .cmd w := by
  refine encode_of_row h cmdWord_of_fields fun h => ?_
  refine encode_of_row h (fun hc hz => cmdWord_of_fields hc (operandArea_of_reserved hz)) fun h => ?_
  refine encode_of_row h cmdWord_of_fields fun h => ?_
  refine encode_of_fullRow h (fun hc => cmdWord_of_fields hc rfl) fun h => ?_
  refine encode_of_row h cmdWord_of_fields fun h => ?_
  refine encode_of_row h (fun hc hz => cmdWord_of_fields hc (pinArea_of_reserved hz)) fun h => ?_
  iterate 2 refine encode_of_row h (fun hc hz => cmdWord_of_fields hc (operandArea_of_reserved hz)) fun h => ?_
  refine encode_of_row h (fun hc hz => cmdWord_of_fields hc (stopArea_of_reserved hz)) fun h => ?_
  refine encode_of_row h (fun hc hz => cmdWord_of_fields hc (reqArea_of_reserved hz)) fun h => ?_
  iterate 4 refine encode_of_row h cmdWord_of_fields fun h => ?_
  iterate 2 refine encode_of_fullRow h (fun hc => cmdWord_of_fields hc rfl) fun h => ?_
  refine encode_of_row h cmdWord_of_fields fun h => ?_
  cases h

theorem encode_of_decodeEvt {w : EvtWord} {i : Instr} (h : decodeEvt w = .instr i) : encode i = .evt w := by
  refine encode_of_row h evtWord_of_fields fun h => ?_
  refine encode_of_row h (fun hc hz => evtWord_of_fields hc (byteEvent_of_reserved hz)) fun h => ?_
  iterate 2 refine encode_of_row h evtWord_of_fields fun h => ?_
  refine encode_of_row h (fun hc hz => evtWord_of_fields hc (operandArea_of_reserved hz)) fun h => ?_
  refine encode_of_row h evtWord_of_fields fun h => ?_
  cases h

theorem encode_of_decodeAct {w : ActWord} {i : Instr} (h : decodeAct w = .instr i) : encode i = .act w := by
  iterate 2 refine encode_of_row h actWord_of_fields fun h => ?_
  refine encode_of_row h (fun hc hz => actWord_of_fields hc (operandArea_of_reserved hz)) fun h => ?_
  refine encode_of_code h (fun hc h => ?_) fun h => ?_
  · exact encode_of_row h (fun hz hz' => actWord_of_fields hc (ackShort_of_reserved hz hz')) nofun
  iterate 2 refine encode_of_row h actWord_of_fields fun h => ?_
  refine encode_of_row h (fun hc hz => actWord_of_fields hc (operandArea_of_reserved hz)) fun h => ?_
  refine encode_of_row h actWord_of_fields fun h => ?_
  iterate 2 refine encode_of_row h (fun hc hz => actWord_of_fields hc (operandArea_of_reserved hz)) fun h => ?_
  iterate 2 refine encode_of_row h actWord_of_fields fun h => ?_
  cases h

/-- Settles O2, port by port. -/
theorem encodeInvertsDecode : Obligations.EncodeInvertsDecode := by
  unfold Obligations.EncodeInvertsDecode
  intro p i h
  cases p with
  | cmd w => exact encode_of_decodeCmd h
  | evt w => exact encode_of_decodeEvt h
  | act w => exact encode_of_decodeAct h

/-! ### A masked word, field by field -/

/-- A masked word is compared half by half. -/
theorem and_append_eq_append_iff {a b : Nat} (w : BitVec (a + b)) (m c : BitVec a) (m' c' : BitVec b) :
    w &&& (m ++ m') = c ++ c' ↔ field w b a &&& m = c ∧ field w 0 b &&& m' = c' := by
  have hw : w = field w b a ++ field w 0 b := BitVec.extractLsb'_append_extractLsb'.symm
  constructor
  · intro h
    have hhi := congrArg (field · b a) h
    have hlo := congrArg (field · 0 b) h
    simp only [field, BitVec.extractLsb'_and, BitVec.extractLsb'_append_eq_left,
      BitVec.extractLsb'_append_eq_right] at hhi hlo
    exact ⟨hhi, hlo⟩
  · rintro ⟨hhi, hlo⟩
    rw [← hhi, ← hlo, ← BitVec.and_append, ← hw]

/-- The mask of the `len` bits from bit `lo` up. -/
def reservedBits {b : Nat} (lo len : Nat) : BitVec b := (BitVec.allOnes len).setWidth b <<< lo

theorem getLsbD_reservedBits {b lo len i : Nat} :
    (reservedBits lo len : BitVec b).getLsbD i = decide (i < b ∧ lo ≤ i ∧ i < lo + len) := by
  rw [Bool.eq_iff_iff]
  simp only [reservedBits, BitVec.getLsbD_shiftLeft, BitVec.getLsbD_setWidth, BitVec.getLsbD_allOnes, Bool.and_eq_true,
    Bool.not_eq_true', decide_eq_true_eq, decide_eq_false_iff_not]
  omega

/-- Masking the bits of a field gives zero exactly when the field is zero. -/
theorem and_reservedBits_eq_zero_iff {n b lo len : Nat} (w : BitVec n) (h : lo + len ≤ b) :
    field w 0 b &&& reservedBits lo len = 0#b ↔ field w lo len = 0#len := by
  simp only [BitVec.eq_of_getLsbD_eq_iff, field, BitVec.getLsbD_and, BitVec.getLsbD_extractLsb', getLsbD_reservedBits,
    BitVec.getLsbD_zero, Nat.zero_add]
  constructor
  · intro hz i hi
    have hbit := hz (lo + i) (by omega)
    grind
  · intro hz i hi
    have hbit := hz (i - lo)
    grind

/-! ### The tables of matches and masks, as codes over reserved bits -/

/-- Some row of the table, a code and the mask of the reserved bits below it, accepts the word `code` over `area`. -/
def Accepts {a b : Nat} (table : List (BitVec a × BitVec b)) (code : BitVec a) (area : BitVec b) : Prop :=
  ∃ r ∈ table, code = r.1 ∧ area &&& r.2 = 0#b

/-- The match and the mask of a row (30 R101 to R103). -/
def tableRow {a b : Nat} (r : BitVec a × BitVec b) : BitVec (a + b) × BitVec (a + b) :=
  (r.1 ++ 0#b, BitVec.allOnes a ++ r.2)

theorem and_tableRow_iff {a b : Nat} (w : BitVec (a + b)) (r : BitVec a × BitVec b) :
    w &&& (tableRow r).2 = (tableRow r).1 ↔ field w b a = r.1 ∧ field w 0 b &&& r.2 = 0#b := by
  rw [tableRow, and_append_eq_append_iff, BitVec.and_allOnes]

theorem selectsRow_map_tableRow_iff {a b : Nat} (table : List (BitVec a × BitVec b)) (w : BitVec (a + b)) :
    selectsRow (table.map tableRow) w = true ↔ Accepts table (field w b a) (field w 0 b) := by
  simp [selectsRow, Accepts, and_tableRow_iff]

/-- R101: the opcode and the reserved bits of each command row. -/
def cmdTable : List (BitVec 8 × BitVec 24) :=
  [(0x01#8, reservedBits 0 24), (0x02#8, reservedBits 7 17), (0x03#8, reservedBits 0 24), (0x04#8, reservedBits 0 0),
   (0x05#8, reservedBits 0 24), (0x06#8, reservedBits 16 8), (0x10#8, reservedBits 7 17), (0x11#8, reservedBits 8 16),
   (0x12#8, reservedBits 1 23), (0x13#8, reservedBits 16 8), (0x14#8, reservedBits 0 24), (0x18#8, reservedBits 0 24),
   (0x19#8, reservedBits 0 24), (0x1A#8, reservedBits 0 24), (0x20#8, reservedBits 0 0), (0x21#8, reservedBits 0 0),
   (0x22#8, reservedBits 0 24)]

/-- R102: the code and the reserved bits of each event row. -/
def evtTable : List (BitVec 4 × BitVec 12) :=
  [(0x1#4, reservedBits 0 12), (0x2#4, reservedBits 9 3), (0x3#4, reservedBits 0 12), (0x4#4, reservedBits 0 12),
   (0x5#4, reservedBits 8 4), (0x6#4, reservedBits 0 12)]

/-- R103: the code and the reserved bits of each action row. -/
def actTable : List (BitVec 4 × BitVec 12) :=
  [(0x1#4, reservedBits 0 12), (0x2#4, reservedBits 0 12), (0x3#4, reservedBits 8 4),
   (0x4#4, reservedBits 9 3 ||| reservedBits 0 8), (0x5#4, reservedBits 0 12), (0x6#4, reservedBits 0 12),
   (0x8#4, reservedBits 8 4), (0x9#4, reservedBits 0 12), (0xA#4, reservedBits 8 4), (0xB#4, reservedBits 7 5),
   (0xC#4, reservedBits 0 12), (0xD#4, reservedBits 0 12)]

theorem cmdRows_eq : cmdRows = cmdTable.map tableRow := by decide

theorem evtRows_eq : evtRows = evtTable.map tableRow := by decide

theorem actRows_eq : actRows = actTable.map tableRow := by decide

/-! ### The decoder's rows -/

/-- Where a code is that of one row only, the decoder's row and the table's accept the same words, and so do the rows
after them. -/
theorem row_accepts_iff {a b : Nat} {code c : BitVec a} {area mask : BitVec b} {d rest : Decoded}
    {table : List (BitVec a × BitVec b)} (hd : (∃ j, d = .instr j) ↔ area &&& mask = 0#b)
    (hc : c ∉ table.map Prod.fst) (hrest : (∃ j, rest = .instr j) ↔ Accepts table code area) :
    (∃ j, (if code = c then d else rest) = .instr j) ↔ Accepts ((c, mask) :: table) code area := by
  simp only [Accepts, List.mem_cons, exists_eq_or_imp]
  split
  next h =>
    subst h
    have hlater : ¬∃ r ∈ table, code = r.1 ∧ area &&& r.2 = 0#b := fun ⟨r, hr, hcode, _⟩ =>
      hc (List.mem_map.mpr ⟨r, hr, hcode.symm⟩)
    simp only [hd, hlater, true_and, or_false]
  next h => simp only [hrest, Accepts, h, false_and, false_or]

/-- A row with one field of reserved bits. -/
theorem reservedRow_accepts_iff {n a b lo len : Nat} {w : BitVec n} {code c : BitVec a} {e : DecodeError} {i : Instr}
    {rest : Decoded} {table : List (BitVec a × BitVec b)} (hlen : lo + len ≤ b) (hc : c ∉ table.map Prod.fst)
    (hrest : (∃ j, rest = .instr j) ↔ Accepts table code (field w 0 b)) :
    (∃ j, (if code = c then whenZero (field w lo len) e i else rest) = .instr j) ↔
      Accepts ((c, reservedBits lo len) :: table) code (field w 0 b) := by
  refine row_accepts_iff ?_ hc hrest
  rw [and_reservedBits_eq_zero_iff w hlen]
  simp [whenZero_eq_instr_iff]

/-- A row with no reserved bits. -/
theorem fullRow_accepts_iff {a b : Nat} {code c : BitVec a} {area : BitVec b} {i : Instr} {rest : Decoded}
    {table : List (BitVec a × BitVec b)} (hc : c ∉ table.map Prod.fst)
    (hrest : (∃ j, rest = .instr j) ↔ Accepts table code area) :
    (∃ j, (if code = c then .instr i else rest) = .instr j) ↔
      Accepts ((c, reservedBits 0 0) :: table) code area :=
  row_accepts_iff (by simp [reservedBits]) hc hrest

theorem rejected_accepts_iff {a b : Nat} {code : BitVec a} {area : BitVec b} {e : DecodeError} :
    (∃ j, Decoded.rejected e = .instr j) ↔ Accepts [] code area := by
  simp [Accepts]

/-- RECV has reserved bits on both sides of its operand. -/
theorem recvRow_iff (w : ActWord) :
    (∃ j, (if field w 9 3 = 0#3 then whenZero (field w 0 8) .illegalAction (.recv (bitAt w 8))
      else .rejected .illegalAction) = .instr j) ↔
      field w 0 12 &&& (reservedBits 9 3 ||| reservedBits 0 8) = 0#12 := by
  rw [BitVec.and_or_distrib_left, BitVec.or_eq_zero_iff, and_reservedBits_eq_zero_iff w (by decide),
    and_reservedBits_eq_zero_iff w (by decide)]
  split
  next h => simp [h, whenZero_eq_instr_iff]
  next h => simp [h]

theorem decodeCmd_accepts_iff (w : CmdWord) :
    (∃ i, decodeCmd w = .instr i) ↔ Accepts cmdTable (field w 24 8) (field w 0 24) := by
  unfold decodeCmd cmdTable
  iterate 3 refine reservedRow_accepts_iff (by decide) (by decide) ?_
  refine fullRow_accepts_iff (by decide) ?_
  iterate 10 refine reservedRow_accepts_iff (by decide) (by decide) ?_
  iterate 2 refine fullRow_accepts_iff (by decide) ?_
  exact reservedRow_accepts_iff (by decide) (by decide) rejected_accepts_iff

theorem decodeEvt_accepts_iff (w : EvtWord) :
    (∃ i, decodeEvt w = .instr i) ↔ Accepts evtTable (field w 12 4) (field w 0 12) := by
  unfold decodeEvt evtTable
  iterate 6 refine reservedRow_accepts_iff (by decide) (by decide) ?_
  exact rejected_accepts_iff

theorem decodeAct_accepts_iff (w : ActWord) :
    (∃ i, decodeAct w = .instr i) ↔ Accepts actTable (field w 12 4) (field w 0 12) := by
  unfold decodeAct actTable
  iterate 3 refine reservedRow_accepts_iff (by decide) (by decide) ?_
  refine row_accepts_iff (recvRow_iff w) (by decide) ?_
  iterate 8 refine reservedRow_accepts_iff (by decide) (by decide) ?_
  exact rejected_accepts_iff

/-- Settles O3: on each port the decoder and the table accept the words of the same codes and zero reserved bits. -/
theorem decoderAcceptsExactlyTableRows : Obligations.DecoderAcceptsExactlyTableRows := by
  unfold Obligations.DecoderAcceptsExactlyTableRows
  rw [cmdRows_eq, evtRows_eq, actRows_eq]
  exact ⟨fun w => (decodeCmd_accepts_iff w).trans (selectsRow_map_tableRow_iff (b := 24) cmdTable w).symm,
    fun w => (decodeEvt_accepts_iff w).trans (selectsRow_map_tableRow_iff (b := 12) evtTable w).symm,
    fun w => (decodeAct_accepts_iff w).trans (selectsRow_map_tableRow_iff (b := 12) actTable w).symm⟩

/-- Settles O4, word by word. -/
theorem specWordsDecode : Obligations.SpecWordsDecode := by
  unfold Obligations.SpecWordsDecode
  decide

end Sys2Proof
end

section
/-! A word that selects no row (30_encoding.md R104), and the actions that stay well formed (30_encoding.md R94,
10_state.md R35, 42_slave_sequencer.md R196). -/

namespace Sys2Proof.Machine

/-! ### Reading a word that does not decode -/

theorem readCommand_of_not_selectsRow {w : CmdWord} (h : selectsRow cmdRows w = false) :
    readCommand w = .illegalCommand := by
  cases hd : decode (.cmd w) with
  | instr i => exact absurd ((decoderAcceptsExactlyTableRows.1 w).mp ⟨i, hd⟩) (by simp [h])
  | rejected e => simp [readCommand, hd]

theorem readEvent_of_not_selectsRow {w : EvtWord} (h : selectsRow evtRows w = false) :
    readEvent w = .illegalEvent := by
  cases hd : decode (.evt w) with
  | instr i => exact absurd ((decoderAcceptsExactlyTableRows.2.1 w).mp ⟨i, hd⟩) (by simp [h])
  | rejected e => simp [readEvent, hd]

theorem step_of_fetch_illegalCommand {s t : State} (h : fetch s = (.illegalCommand, t)) :
    step s = .next (t.refuse .illegalEncoding) := by
  simp [step, h]

theorem step_of_fetch_illegalEvent {s t : State} (h : fetch s = (.illegalEvent, t)) : step s = .next t := by
  simp [step, h]

/-- Settles O6: by O3 such a word is read as illegal, and the step then refuses the command or ignores the event. -/
theorem undecodableWordsChangeNothing : Obligations.UndecodableWordsChangeNothing := by
  unfold Obligations.UndecodableWordsChangeNothing
  intro s turns
  refine ⟨fun w rest ha hc hw => ?_, fun k w ha he hw hk => ?_⟩
  · exact step_of_fetch_illegalCommand <| by rw [fetch_host ha hc, readCommand_of_not_selectsRow hw]
  · exact step_of_fetch_illegalEvent <| by
      rw [fetch_busEvent ha (offered?_of_offerable he hk), readEvent_of_not_selectsRow hw]

/-! ### Well-formed actions -/

/-- An unwritten entry of a row reads 0, and a table of well-formed rows holds settings of DIV_BITS bits (00 R4). -/
theorem resolve_lt {c : Config} (hc : c.wf = true) (k hz : Nat) : (resolve c k hz).toNat < 2 ^ c.divBits := by
  have hrows : ∀ r ∈ c.dividerTable, ∀ v ∈ r.settings, v.toNat < 2 ^ c.divBits := by
    simp only [Config.wf, Config.dividerTableOk, Config.tableOk, Config.rowOk, Bool.and_eq_true, List.all_eq_true,
      decide_eq_true_eq] at hc
    obtain ⟨-, -, hall⟩ := hc
    exact fun r hr => (hall r hr).2
  have hrow : ∀ v ∈ (rowOf c hz).settings, v.toNat < 2 ^ c.divBits := by
    unfold rowOf
    split
    next r hr => exact hrows r (List.mem_of_find?_eq_some hr)
    next => exact fun v hv => absurd hv List.not_mem_nil
  unfold resolve DividerRow.setting
  rw [List.getD_eq_getElem?_getD]
  cases hv : (rowOf c hz).settings[k]? with
  | none => exact Nat.two_pow_pos _
  | some v => exact hrow v (List.mem_of_getElem? hv)

section ActionsWf
variable {s t : State} (hs : s.ActionsWf)
include hs

/-- What the invariant of the actions speaks of is as it was. -/
theorem State.ActionsWf.of_same (hcfg : t.cfg = s.cfg := by rfl) (hout : t.out = s.out := by rfl)
    (hport : t.actionPort = s.actionPort := by rfl) (hclock : t.clockSetting = s.clockSetting := by rfl)
    (hunit : t.busUnit.divider = s.busUnit.divider := by rfl) : t.ActionsWf := by
  constructor <;> simp only [hcfg, hout, hport, hclock, hunit]
  exacts [hs.out_wf, hs.port_wf, hs.setting_wf, hs.divider_wf]

/-- Emitting a well-formed action. -/
theorem State.ActionsWf.emit {a : Act} (ha : a.wf s.cfg = true) : (s.emit a).ActionsWf where
  out_wf := List.forall_mem_append.mpr ⟨hs.out_wf, List.forall_mem_singleton.mpr ha⟩
  port_wf := List.forall_mem_append.mpr ⟨hs.port_wf, List.forall_mem_singleton.mpr ha⟩
  setting_wf := hs.setting_wf
  divider_wf := hs.divider_wf

/-- A procedure of the sequencer that emits well-formed actions. -/
theorem State.ActionsWf.of_frame {as : List Act} (hf : SequencerFrame s t as) (has : ∀ a ∈ as, a.wf s.cfg = true) :
    t.ActionsWf := by
  rw [hf]
  exact ⟨List.forall_mem_append.mpr ⟨hs.out_wf, has⟩, List.forall_mem_append.mpr ⟨hs.port_wf, has⟩, hs.setting_wf,
    hs.divider_wf⟩

end ActionsWf

/-! ### Events, commands and actions keep them well formed -/

theorem slaveSend_actionsWf {s t : State} (hs : s.ActionsWf) (h : slaveSend s = .next t) : t.ActionsWf := by
  obtain ⟨b, hf⟩ := slaveSend_frame h
  rw [hf]
  exact (hs.emit (a := .send b) rfl).of_same

theorem writeNext_actionsWf {s t : State} (hs : s.ActionsWf) (h : writeNext s = .next t) : t.ActionsWf := by
  obtain ⟨as, hf, has⟩ := writeNext_frame h
  refine hs.of_frame hf ?_
  rcases has with ⟨b, rfl⟩ | rfl | rfl <;> simp [Act.wf, Act.toInstr, Instr.wf]

theorem readNext_actionsWf {s : State} (hs : s.ActionsWf) : (readNext s).ActionsWf := by
  obtain ⟨as, hf, has⟩ := readNext_frame s
  refine hs.of_frame hf ?_
  rcases has with ⟨k, rfl⟩ | rfl | rfl <;> simp [Act.wf, Act.toInstr, Instr.wf]

theorem raise_actionsWf {s : State} (hs : s.ActionsWf) (e : Status) : (s.raise e).ActionsWf := by
  obtain ⟨as, hf, has⟩ := raise_frame s e
  refine hs.of_frame hf ?_
  rcases has with ⟨-, rfl⟩ | rfl | rfl <;> simp [Act.wf, Act.toInstr, Instr.wf]

theorem pushReceived_actionsWf {s : State} (hs : s.ActionsWf) (b : Byte) : (s.pushReceived b).ActionsWf := by
  rw [State.pushReceived_eq]
  exact hs.of_same

/-- The count of bytes received is one that RX can hold (42 R196). -/
theorem slaveDeliver_actionsWf {s : State} (hs : s.ActionsWf) (hlen : s.rxLen ≤ s.cfg.rxCapacity) :
    (slaveDeliver s).ActionsWf := by
  have hdone : (slaveDone s).ActionsWf := hs.of_same
  have hcount : (countByte s.rxLen).toNat ≤ s.cfg.rxCapacity := by
    rw [countByte, BitVec.toNat_ofNat]
    exact (Nat.mod_le _ _).trans hlen
  unfold slaveDeliver
  split
  · exact (hdone.emit (a := .cbReceive (countByte s.rxLen)) (decide_eq_true hcount)).of_same
  · exact hdone

theorem EventStep.actionsWf {s t : State} {i : Instr} (h : EventStep s i t) (hlen : s.rxLen ≤ s.cfg.rxCapacity)
    (hs : s.ActionsWf) : t.ActionsWf := by
  have hphase : ∀ p, ({ s with phase := p } : State).ActionsWf := fun p => hs.of_same
  have hopen : ∀ d, (slaveTransmitOpen d s).ActionsWf := fun d => hs.of_same
  cases h with
  | ignored => exact hs
  | held => exact hs.of_same
  | @addressSent b _ _ => exact (hs.emit (a := .send b) rfl).of_same
  | writeOpened _ _ h => exact writeNext_actionsWf (hphase _) h
  | readOpened d _ _ => exact readNext_actionsWf (hphase _)
  | addressRefused d _ => exact raise_actionsWf hs _
  | byteTaken _ h => exact writeNext_actionsWf hs h
  | byteRefused d _ => exact raise_actionsWf hs _
  | byteArrived ack d _ => exact readNext_actionsWf (pushReceived_actionsWf hs d).of_same
  | stopDetected _ => exact hs.of_same
  | arbitrationLost _ _ => exact raise_actionsWf hs _
  | timedOut _ => exact raise_actionsWf hs _
  | delivered _ _ => exact slaveDeliver_actionsWf hs hlen
  | transmitEnded _ _ => exact hs.of_same
  | received ack d _ => exact pushReceived_actionsWf hs d
  | nextSent _ h => exact slaveSend_actionsWf hs h
  | writeMatched d _ => exact hs.of_same
  | requestEntered d _ _ => exact ((hopen d).emit (a := .cbRequest) rfl).of_same
  | readAnswered d _ _ h => exact slaveSend_actionsWf (hopen d) h

/-- BEGIN loads a divider setting of the table before it announces it (44 R250, R251). -/
theorem initCommon_actionsWf {s : State} (hwf : s.cfg.wf = true) (hs : s.ActionsWf) : (initCommon s).ActionsWf :=
  ⟨hs.out_wf, hs.port_wf, resolve_lt hwf _ _, hs.divider_wf⟩

theorem announce_actionsWf {s : State} (hs : s.ActionsWf) : (announce s).ActionsWf :=
  (hs.emit (a := .enable) rfl).emit (a := .setDiv s.clockSetting) (decide_eq_true hs.setting_wf)

theorem startMaster_actionsWf {k : Txn} {s : State} (hs : s.ActionsWf) : (startMaster k s).ActionsWf :=
  (hs.emit (a := if s.busHeld then .restart else .start) (by split <;> rfl)).of_same

theorem Accepted.actionsWf {s t : State} {i : Instr} (h : Accepted s i t) (hwf : s.cfg.wf = true) (hs : s.ActionsWf) :
    t.ActionsWf := by
  have hinit : (initCommon s).ActionsWf := initCommon_actionsWf hwf hs
  cases h with
  | beginMaster _ => exact announce_actionsWf hinit.of_same
  | beginSlave a _ _ =>
    have hslave : ({ initCommon s with slaveAddr := a, mode := .slave } : State).ActionsWf := hinit.of_same
    exact (announce_actionsWf hslave).emit (a := .setSaddr a) rfl
  | endUnit _ _ _ =>
    cases s.busHeld with
    | false => exact (hs.emit (a := .disable) rfl).of_same
    | true => exact ((hs.emit (a := .release) rfl).emit (a := .disable) rfl).of_same
  | setClock f v hv =>
    have hlt : v.toNat < 2 ^ s.cfg.divBits := hv ▸ resolve_lt hwf _ _
    have hloaded : ({ s with clockSetting := v } : State).ActionsWf := ⟨hs.out_wf, hs.port_wf, hlt, hs.divider_wf⟩
    exact hloaded.emit (decide_eq_true hlt)
  | write d _ =>
    rw [stageByte_frame]
    exact hs.of_same
  | endTx stop _ _ => exact startMaster_actionsWf hs.of_same
  | reqFrom a stop q _ _ => exact startMaster_actionsWf hs.of_same
  | cbReturnSends _ h => exact slaveSend_actionsWf (s := s.leaveHandler) hs.of_same h
  | _ => exact hs.of_same

/-- Taking a well-formed action loads no other divider setting than one of DIV_BITS bits (44 R257). -/
theorem action_actionsWf {a : Act} {s t : State} (ha : a.wf s.cfg = true) (h : exec a.toInstr s = .next t)
    (hs : s.ActionsWf) : t.ActionsWf := by
  cases a with
  | setDiv v => cases h; exact ⟨hs.out_wf, hs.port_wf, hs.setting_wf, of_decide_eq_true ha⟩
  | _ => cases h; exact hs.of_same

theorem exec_actionsWf {i : Instr} {s t : State} (hwf : s.cfg.wf = true) (hi : i.wf s.cfg = true)
    (hlen : s.rxLen ≤ s.cfg.rxCapacity) (h : exec i s = .next t) (hs : s.ActionsWf) : t.ActionsWf := by
  rcases instr_kind i with he | hc | ⟨a, rfl⟩
  · exact (event_step he h).actionsWf hlen hs
  · cases command_step hc h with
    | refused r => exact hs.of_same
    | answered v hv => exact (hv.actionsWf hwf hs).of_same
  · exact action_actionsWf hi h hs

/-! ### What is fetched -/

/-- Only an action has an operand that the configuration bounds (30 R94). -/
theorem wf_or_encode_act (c : Config) (i : Instr) : i.wf c = true ∨ ∃ w, encode i = .act w := by
  cases i
  case cbReceive n => exact .inr ⟨_, rfl⟩
  case setDiv v => exact .inr ⟨_, rfl⟩
  all_goals exact .inl rfl

/-- What the command or the event port's table decodes to encodes to no action word. -/
theorem wf_of_decode {p : PortWord} {i : Instr} (c : Config) (hp : ∀ w, p ≠ .act w) (hd : decode p = .instr i) :
    i.wf c = true :=
  (wf_or_encode_act c i).resolve_right fun ⟨w, hw⟩ => hp w ((encodeInvertsDecode p i hd).symm.trans hw)

theorem fetch_instr_wf {s t : State} {i : Instr} (hs : s.ActionsWf) (h : fetch s = (.instr i, t)) :
    i.wf s.cfg = true := by
  rcases fetch_instr h with ⟨w, -, hd⟩ | ⟨w, -, hd⟩ | ⟨a, ha, rfl⟩ | rfl
  · exact wf_of_decode s.cfg (by simp) hd
  · exact wf_of_decode s.cfg (by simp) hd
  · exact hs.port_wf a ha
  · rfl

theorem fetch_actionsWf {s : State} (hs : s.ActionsWf) : (fetch s).2.ActionsWf := by
  constructor <;> simp only [fetch_cfg, fetch_out, fetch_clockSetting, fetch_busUnit]
  exacts [hs.out_wf, fun a ha => hs.port_wf a (fetch_actionPort ha), hs.setting_wf, hs.divider_wf]

/-- Settles O49: what is fetched is well formed, and running it emits and loads well-formed operands only. -/
theorem stepKeepsActionsWellFormed : Obligations.StepKeepsActionsWellFormed := by
  unfold Obligations.StepKeepsActionsWellFormed
  intro s t hwf hi hs h
  have hfetch : (fetch s).2.ActionsWf := fetch_actionsWf hs
  rcases step_cases h with rfl | rfl | ⟨i, hf, h⟩
  · exact hfetch
  · exact hfetch.of_same
  · have hiwf : i.wf s.cfg = true := fetch_instr_wf hs (Prod.ext hf rfl)
    exact exec_actionsWf (by rwa [fetch_cfg]) (by rwa [fetch_cfg])
      (by rw [fetch_rxLen, fetch_cfg]; exact hi.rx_bounds.2) h hfetch

end Sys2Proof.Machine
end

section
/-! The clock divider resolver over every well-formed configuration (40_clock_divider.md R130 to R134, R137): what each
of its four functions answers, said once, and the two commands that call it (R135, R136). -/

namespace Sys2Proof.Machine

/-! ### The nearest clock -/

/-- The model's distance on naturals is that of the integers (20 R81 item 5). -/
theorem distance_eq_natAbs (a b : Nat) : distance a b = ((a : Int) - b).natAbs := by
  unfold distance
  omega

theorem leastOf_spec {l : List Nat} (d : Nat) (h : l ≠ []) : leastOf d l ∈ l ∧ ∀ x ∈ l, leastOf d l ≤ x := by
  cases l with
  | nil => exact absurd rfl h
  | cons x rest => exact List.min?_eq_some_iff.mp List.min?_cons'

theorem greatestOf_spec {l : List Nat} (d : Nat) (h : l ≠ []) : greatestOf d l ∈ l ∧ ∀ x ∈ l, x ≤ greatestOf d l := by
  cases l with
  | nil => exact absurd rfl h
  | cons x rest => exact List.max?_eq_some_iff.mp List.max?_cons'

theorem clockKeys_ne_nil {c : Config} (h : c.dividerTable ≠ []) : clockKeys c ≠ [] := mt List.map_eq_nil_iff.mp h

/-- A supported clock is its own answer (40 R131). -/
theorem nearestClock_of_mem {c : Config} {hz : Nat} (h : hz ∈ clockKeys c) : nearestClock c hz = hz := by
  simp [nearestClock, h]

/-- An unsupported clock is answered by the greatest key at the least distance (40 R131). -/
theorem nearestClock_of_not_mem {c : Config} {hz : Nat} (h : hz ∉ clockKeys c) :
    nearestClock c hz = greatestOf hz ((clockKeys c).filter fun k =>
      decide (distance k hz = leastOf 0 ((clockKeys c).map (distance · hz)))) := by
  simp [nearestClock, h]

/-- The answer is a key, no key is nearer, and no key as near is higher. -/
theorem nearestClock_spec {c : Config} (hz : Nat) (hne : clockKeys c ≠ []) :
    nearestClock c hz ∈ clockKeys c ∧
    (∀ k ∈ clockKeys c, distance (nearestClock c hz) hz ≤ distance k hz) ∧
    (∀ k ∈ clockKeys c, distance k hz = distance (nearestClock c hz) hz → k ≤ nearestClock c hz) := by
  by_cases hmem : hz ∈ clockKeys c
  · rw [nearestClock_of_mem hmem]
    exact ⟨hmem, fun k _ => by simp [distance], fun k _ hk => by unfold distance at hk; omega⟩
  · obtain ⟨hattained, hleast⟩ := leastOf_spec 0 (mt List.map_eq_nil_iff.mp hne : (clockKeys c).map (distance · hz) ≠ [])
    obtain ⟨k₀, hk₀, hd₀⟩ := List.mem_map.mp hattained
    have hcand : k₀ ∈ (clockKeys c).filter fun k =>
        decide (distance k hz = leastOf 0 ((clockKeys c).map (distance · hz))) :=
      List.mem_filter.mpr ⟨hk₀, decide_eq_true hd₀⟩
    obtain ⟨hin, hgreatest⟩ := greatestOf_spec hz (List.ne_nil_of_mem hcand)
    rw [← nearestClock_of_not_mem hmem] at hin hgreatest
    obtain ⟨hkey, hd⟩ := List.mem_filter.mp hin
    rw [of_decide_eq_true hd]
    exact ⟨hkey, fun k hk => hleast _ (List.mem_map_of_mem hk),
      fun k hk hkd => hgreatest k (List.mem_filter.mpr ⟨hk, decide_eq_true hkd⟩)⟩

/-- Settles O10: the nearest key, the higher on a tie, by the least distance and the greatest key that has it. -/
theorem nearestClockIsNearestAndHighest : Obligations.NearestClockIsNearestAndHighest := by
  unfold Obligations.NearestClockIsNearestAndHighest
  intro c hz hne
  obtain ⟨hkey, hnearest, hhighest⟩ := nearestClock_spec hz (clockKeys_ne_nil hne)
  simp only [distance_eq_natAbs] at hnearest hhighest
  exact ⟨hkey, nearestClock_of_mem, hnearest, hhighest⟩

/-! ### The row of a clock -/

/-- The row answered is a row of the table, that of the nearest clock (40 R131). -/
theorem rowOf_spec {c : Config} (hz : Nat) (hne : c.dividerTable ≠ []) :
    rowOf c hz ∈ c.dividerTable ∧ (rowOf c hz).busClockHz = nearestClock c hz := by
  unfold rowOf
  split
  next r hr => exact ⟨List.mem_of_find?_eq_some hr, by simpa using List.find?_some hr⟩
  next hnone =>
    obtain ⟨r, hr, hclock⟩ := List.mem_map.mp (nearestClock_spec hz (clockKeys_ne_nil hne)).1
    exact absurd (decide_eq_true hclock) (List.find?_eq_none.mp hnone r hr)

theorem nodup_of_allDistinct {α : Type} [DecidableEq α] {l : List α} (h : allDistinct l = true) : l.Nodup := by
  induction l with
  | nil => exact List.nodup_nil
  | cons x rest ih =>
    simp only [allDistinct, Bool.and_eq_true, Bool.not_eq_true', List.contains_eq_mem,
      decide_eq_false_iff_not] at h
    exact List.nodup_cons.mpr ⟨h.1, ih h.2⟩

theorem dividerTable_ne_nil_of_wf {c : Config} (hc : c.wf = true) : c.dividerTable ≠ [] := by
  simp only [Config.wf, Config.dividerTableOk, Config.tableOk, Bool.and_eq_true] at hc
  simpa using hc.2.1.1

/-- In a well-formed configuration the row answered has one setting for each class, and no two alike (00 R4). -/
theorem rowOf_settings {c : Config} (hc : c.wf = true) (hz : Nat) :
    (rowOf c hz).settings.length = c.rateClasses.length ∧ (rowOf c hz).settings.Nodup := by
  have hrow := (rowOf_spec hz (dividerTable_ne_nil_of_wf hc)).1
  simp only [Config.wf, Config.dividerTableOk, Config.tableOk, Config.rowOk, Bool.and_eq_true, List.all_eq_true,
    decide_eq_true_eq] at hc
  obtain ⟨-, -, hrows⟩ := hc
  obtain ⟨⟨hlen, hdistinct⟩, -⟩ := hrows _ hrow
  exact ⟨hlen, nodup_of_allDistinct hdistinct⟩

/-! ### resolve -/

theorem getElem?_settings_eq_resolve {c : Config} {k : Nat} (hc : c.wf = true) (hk : k < c.rateClasses.length)
    (hz : Nat) : (rowOf c hz).settings[k]? = some (resolve c k hz) := by
  have hlt : k < (rowOf c hz).settings.length := (rowOf_settings hc hz).1 ▸ hk
  rw [resolve, DividerRow.setting, List.getD_eq_getElem _ _ hlt, List.getElem?_eq_getElem hlt]

/-- Settles O11: the row is that of the nearest clock, and it has a setting for every class. -/
theorem resolveReadsTheNearestRow : Obligations.ResolveReadsTheNearestRow := by
  unfold Obligations.ResolveReadsTheNearestRow
  intro c k hz hc hk
  obtain ⟨hrow, hclock⟩ := rowOf_spec hz (dividerTable_ne_nil_of_wf hc)
  exact ⟨rowOf c hz, hrow, hclock, getElem?_settings_eq_resolve hc hk hz⟩

/-- Two classes resolve to one setting only where they are one class (00 R4: a row's settings are distinct). -/
theorem resolve_injective {c : Config} {j k hz : Nat} (hc : c.wf = true) (hj : j < c.rateClasses.length)
    (hk : k < c.rateClasses.length) (h : resolve c j hz = resolve c k hz) : j = k := by
  obtain ⟨hlen, hnodup⟩ := rowOf_settings hc hz
  refine (List.getElem?_inj (hlen ▸ hj) hnodup).mp ?_
  rw [getElem?_settings_eq_resolve hc hj, getElem?_settings_eq_resolve hc hk, h]

/-! ### classify -/

/-- A class that resolves to the setting, or, where there is none, the class named Fast (40 R133). -/
theorem classify_cases (c : Config) (v : Byte) (hz : Nat) :
    (classify c v hz < c.rateClasses.length ∧ resolve c (classify c v hz) hz = v) ∨
    ((∀ k < c.rateClasses.length, resolve c k hz ≠ v) ∧ classify c v hz = fastClass c) := by
  unfold classify
  dsimp only
  split
  next k hk => exact .inl ⟨List.mem_range.mp (List.mem_of_find?_eq_some hk), by simpa [resolve] using List.find?_some hk⟩
  next hnone =>
    exact .inr ⟨fun k hk hv => List.find?_eq_none.mp hnone k (List.mem_range.mpr hk) (decide_eq_true hv), rfl⟩

/-- Settles O12: some class resolves to the setting, and by the distinct settings of a row it is the class asked for. -/
theorem classifyInvertsResolve : Obligations.ClassifyInvertsResolve := by
  unfold Obligations.ClassifyInvertsResolve
  intro c k hz hc hk
  rcases classify_cases c (resolve c k hz) hz with ⟨hlt, hsame⟩ | ⟨hnone, -⟩
  · exact resolve_injective hc hlt hk hsame
  · exact absurd rfl (hnone k hk)

theorem fastClass_name {c : Config} (hc : c.wf = true) :
    ∃ r, c.rateClasses[fastClass c]? = some r ∧ r.name = .fast := by
  have hfast : ∃ r ∈ c.rateClasses, decide (r.name = RateName.fast) = true := by
    simp only [Config.wf, Config.hasFastClass, Bool.and_eq_true, List.any_eq_true] at hc
    tauto
  have hlt : fastClass c < c.rateClasses.length := List.findIdx_lt_length.mpr hfast
  exact ⟨_, List.getElem?_eq_getElem hlt, of_decide_eq_true (List.findIdx_getElem (w := hlt))⟩

/-- Settles O13: no class resolves to the setting, so the fallback is answered, and the list has a class named Fast. -/
theorem classifyFallsBackToFast : Obligations.ClassifyFallsBackToFast := by
  unfold Obligations.ClassifyFallsBackToFast
  intro c v hz hc hnone
  rcases classify_cases c v hz with ⟨hlt, hv⟩ | ⟨-, hfast⟩
  · exact absurd hv (hnone _ hlt)
  · rw [hfast]
    exact fastClass_name hc

/-! ### rate_class_of -/

theorem nominalOf_eq {c : Config} {k : Nat} {r : RateClass} (h : c.rateClasses[k]? = some r) :
    nominalOf c k = r.nominalHz := by
  simp [nominalOf, h]

/-- The last class not faster than the frequency, or, where there is none, the first (40 R134). -/
theorem rateClassOf_cases (c : Config) (f : Nat) :
    (rateClassOf c f < c.rateClasses.length ∧ nominalOf c (rateClassOf c f) ≤ f ∧
      ∀ k < c.rateClasses.length, nominalOf c k ≤ f → k ≤ rateClassOf c f) ∨
    ((∀ k < c.rateClasses.length, f < nominalOf c k) ∧ rateClassOf c f = 0) := by
  have hmem : ∀ k, k ∈ (List.range c.rateClasses.length).filter (fun k => decide (nominalOf c k ≤ f)) ↔
      k < c.rateClasses.length ∧ nominalOf c k ≤ f := by simp
  have hrising := (List.pairwise_lt_range (n := c.rateClasses.length)).filter fun k => decide (nominalOf c k ≤ f)
  rw [rateClassOf, List.getLastD_eq_getLast?]
  generalize (List.range c.rateClasses.length).filter (fun k => decide (nominalOf c k ≤ f)) = below at hmem hrising ⊢
  cases hlast : below.getLast? with
  | none =>
    obtain rfl := List.getLast?_eq_none_iff.mp hlast
    exact .inr ⟨fun k hk => by simpa [hk] using hmem k, rfl⟩
  | some k =>
    obtain ⟨slower, rfl⟩ := List.getLast?_eq_some_iff.mp hlast
    obtain ⟨hk, hf⟩ := (hmem k).mp (by simp)
    refine .inl ⟨hk, hf, fun j hj hjf => ?_⟩
    rcases List.mem_append.mp ((hmem j).mpr ⟨hj, hjf⟩) with hslower | hsame
    · exact ((List.pairwise_append.mp hrising).2.2 j hslower k (List.mem_singleton_self k)).le
    · exact (List.mem_singleton.mp hsame).le

theorem rateClasses_length_pos {c : Config} (hc : c.wf = true) : 0 < c.rateClasses.length := by
  obtain ⟨r, hr, -⟩ := fastClass_name hc
  exact List.length_pos_of_mem (List.mem_of_getElem? hr)

/-- Settles O14: the last class not faster is the floor, and where there is none the slowest is answered. -/
theorem rateClassIsTheFloor : Obligations.RateClassIsTheFloor := by
  unfold Obligations.RateClassIsTheFloor
  intro c f hc
  rcases rateClassOf_cases c f with ⟨hlt, hfloor, hlast⟩ | ⟨hfaster, hzero⟩
  · have hq := List.getElem?_eq_getElem hlt
    rw [nominalOf_eq hq] at hfloor
    refine ⟨hlt, fun k r hr hf => ⟨?_, _, hq, hfloor⟩, fun hall => ?_⟩
    · exact hlast k (List.getElem?_eq_some_iff.mp hr).1 (nominalOf_eq hr ▸ hf)
    · exact absurd hfloor (Nat.not_le.mpr (hall _ (List.getElem_mem hlt)))
  · refine ⟨hzero ▸ rateClasses_length_pos hc, fun k r hr hf => ?_, fun _ => hzero⟩
    have := hfaster k (List.getElem?_eq_some_iff.mp hr).1
    rw [nominalOf_eq hr] at this
    exact absurd hf (Nat.not_le.mpr this)

/-! ### SET_CLOCK and GET_RATE -/

theorem command_of_gate {c : Command} {s : State} {body : State → Host.Outcome State Fault Refusal}
    (h : gate c s = none) : command c s body = body s := by
  simp [command, h]

/-- GET_RATE passes the gate in every begun state: it is accepted in a handler, in flight and in Idle (43 R220). -/
theorem gate_getRate {s : State} (hm : s.mode ≠ .off) : gate .getRate s = none := by
  by_cases hc : s.cbActive = .noCallback
  · by_cases hp : s.phase = .idle
    · simp [gate_idle hm hc hp, masterCommands]
    · simp [gate, hm, hc, hp, masterCommands, acceptedInFlight]
  · simp [gate_callback hm hc, acceptedInCallback]

/-- Settles O19: both commands pass the gate, and their rules are the two results. -/
theorem clockCommandsLoadAndReadTheDivider : Obligations.ClockCommandsLoadAndReadTheDivider := by
  unfold Obligations.ClockCommandsLoadAndReadTheDivider
  intro s f hm
  refine ⟨fun hp hc => ?_, ?_⟩
  · have hg : gate .setClock s = none := by simp [gate_idle hm hc hp, masterCommands]
    exact ⟨_, by rw [exec, execSetClock, command_of_gate hg], rfl⟩
  · rw [exec, execGetRate, command_of_gate (gate_getRate hm)]
    rfl

end Sys2Proof.Machine
end

section
/-! The divider setting and the pins steer nothing (40_clock_divider.md R140, 10_state.md R35, R36): every operation
commutes with overwriting the three, so every instruction that neither loads nor reads them does. -/

namespace Sys2Proof.Machine

/-- The state with other values of the divider setting and the pins. -/
def State.withSettings (v p q : Byte) (s : State) : State := { s with clockSetting := v, pinScl := p, pinSda := q }

/-- Overwriting the settings before `f` is overwriting them after it. -/
def Unsteered (f : State → Host.Outcome State Fault Refusal) : Prop :=
  ∀ (v p q : Byte) (s : State), f (s.withSettings v p q) = mapNext (State.withSettings v p q) (f s)

/-- A choice by one condition commutes where both branches do. -/
theorem ite_commutes {α β : Type} (f : α → β) {P : Prop} [Decidable P] {a b : α} {x y : β} (ha : x = f a)
    (hb : y = f b) : (if P then x else y) = f (if P then a else b) := by
  rw [apply_ite f, ha, hb]

section Operations
variable (v p q : Byte) (s : State)

/-! ### What the rules match on -/

@[simp] theorem withSettings_cfg : (s.withSettings v p q).cfg = s.cfg := rfl
@[simp] theorem withSettings_mode : (s.withSettings v p q).mode = s.mode := rfl
@[simp] theorem withSettings_phase : (s.withSettings v p q).phase = s.phase := rfl
@[simp] theorem withSettings_cbReceive : (s.withSettings v p q).cbReceive = s.cbReceive := rfl
@[simp] theorem withSettings_txCur : (s.withSettings v p q).txCur = s.txCur := rfl
@[simp] theorem withSettings_rxCur : (s.withSettings v p q).rxCur = s.rxCur := rfl
@[simp] theorem withSettings_txByte? (i : Nat) : (s.withSettings v p q).txByte? i = s.txByte? i := rfl
@[simp] theorem withSettings_rxByte? (i : Nat) : (s.withSettings v p q).rxByte? i = s.rxByte? i := rfl
@[simp] theorem withSettings_peek : (s.withSettings v p q).peek = s.peek := rfl
@[simp] theorem gate_withSettings (c : Command) : gate c (s.withSettings v p q) = gate c s := rfl

/-! ### The operations that reach a next state -/

theorem forceStop_withSettings : (s.withSettings v p q).forceStop = s.forceStop.withSettings v p q :=
  ite_commutes (State.withSettings v p q) rfl rfl

theorem finishOk_withSettings : (s.withSettings v p q).finishOk = s.finishOk.withSettings v p q :=
  ite_commutes (State.withSettings v p q) (forceStop_withSettings v p q { s with status := .success }) rfl

theorem abort_withSettings (e : Status) : (s.withSettings v p q).abort e = (s.abort e).withSettings v p q :=
  ite_commutes (State.withSettings v p q) rfl rfl

theorem raise_withSettings (e : Status) : (s.withSettings v p q).raise e = (s.raise e).withSettings v p q := by
  cases e with
  | success => rfl
  | addressNak => exact forceStop_withSettings v p q { s with status := .addressNak }
  | dataNak => exact forceStop_withSettings v p q { s with status := .dataNak }
  | arbitrationLost => exact abort_withSettings v p q s .arbitrationLost
  | timeout => exact abort_withSettings v p q s .timeout

theorem stageByte_withSettings (b : Byte) :
    (s.withSettings v p q).stageByte b = (s.stageByte b).map (State.withSettings v p q) id :=
  ite_commutes (Prod.map (State.withSettings v p q) id) rfl rfl

theorem pushReceived_withSettings (b : Byte) :
    (s.withSettings v p q).pushReceived b = (s.pushReceived b).withSettings v p q :=
  ite_commutes (State.withSettings v p q) rfl rfl

theorem readNext_withSettings : readNext (s.withSettings v p q) = (readNext s).withSettings v p q :=
  ite_commutes (State.withSettings v p q) (finishOk_withSettings v p q s) rfl

theorem byteArrived_withSettings (d : Byte) :
    byteArrived d (s.withSettings v p q) = (byteArrived d s).withSettings v p q := by
  rw [byteArrived, pushReceived_withSettings]
  exact readNext_withSettings v p q { s.pushReceived d with rxRemaining := (s.pushReceived d).rxRemaining - 1 }

theorem fillByte_withSettings :
    (s.withSettings v p q).fillByte = s.fillByte.map id (State.withSettings v p q) := by
  simp only [State.fillByte, withSettings_cfg]
  cases s.cfg.slaveTxFill <;> rfl

theorem takeByte_withSettings :
    (s.withSettings v p q).takeByte = s.takeByte.map (Prod.map id (State.withSettings v p q)) := by
  refine ite_commutes (Except.map (Prod.map id (State.withSettings v p q))) ?_ rfl
  simp only [withSettings_rxCur, withSettings_rxByte?]
  cases s.rxByte? s.rxCur <;> rfl

theorem slaveDeliver_withSettings : slaveDeliver (s.withSettings v p q) = (slaveDeliver s).withSettings v p q := by
  simp only [slaveDeliver, withSettings_cbReceive]
  cases s.cbReceive <;> rfl

end Operations

/-! ### The procedures that can fault -/

/-- A choice by a condition that reads no setting. -/
theorem Unsteered.ite {P : State → Prop} [∀ s, Decidable (P s)] {f g : State → Host.Outcome State Fault Refusal}
    (hP : ∀ v p q s, P (s.withSettings v p q) = P s := by intros; rfl) (hf : Unsteered f) (hg : Unsteered g) :
    Unsteered fun s => if P s then f s else g s := by
  intro v p q s
  simp only [hP]
  exact ite_commutes (mapNext (State.withSettings v p q)) (hf v p q s) (hg v p q s)

/-- A rule that always reaches a next state, by an operation that commutes. -/
theorem unsteered_next {f : State → State}
    (h : ∀ v p q s, f (s.withSettings v p q) = (f s).withSettings v p q := by intros; rfl) :
    Unsteered fun s => .next (f s) :=
  fun v p q s => congrArg Host.Outcome.next (h v p q s)

/-- What follows an outcome commutes where the outcome does (44 R256: the response to CB_RETURN). -/
theorem mapNext_unsteered {f : State → Host.Outcome State Fault Refusal} {g : State → State} (hf : Unsteered f)
    (hg : ∀ v p q s, g (s.withSettings v p q) = (g s).withSettings v p q) : Unsteered fun s => mapNext g (f s) := by
  intro v p q s
  dsimp only
  rw [hf v p q s]
  cases f s with
  | next t => exact congrArg Host.Outcome.next (hg v p q t)
  | fault r => rfl
  | refused r => rfl

theorem sendAddress_unsteered : Unsteered sendAddress := by
  intro v p q s
  simp only [sendAddress, withSettings_txByte?]
  cases s.txByte? 0 <;> rfl

theorem writeNext_unsteered : Unsteered writeNext := by
  refine .ite (hg := unsteered_next finishOk_withSettings) (hf := fun v p q s => ?_)
  simp only [withSettings_txCur, withSettings_txByte?]
  cases s.txByte? s.txCur <;> rfl

theorem slaveSend_unsteered : Unsteered slaveSend := by
  refine .ite (hf := fun v p q s => ?_) (hg := fun v p q s => ?_)
  · simp only [withSettings_txCur, withSettings_txByte?]
    cases s.txByte? s.txCur <;> rfl
  · rw [fillByte_withSettings]
    rfl

theorem slaveTransmitEntry_unsteered (d : Byte) : Unsteered (slaveTransmitEntry d) := by
  intro v p q s
  rcases slaveTransmitEntry_cases d s with ⟨h, e⟩ | ⟨h, e⟩
  · obtain ⟨-, e'⟩ := (slaveTransmitEntry_cases d (s.withSettings v p q)).resolve_right fun h' => h h'.1
    rw [e, e']
    rfl
  · obtain ⟨-, e'⟩ := (slaveTransmitEntry_cases d (s.withSettings v p q)).resolve_left fun h' => h'.1 h
    rw [e, e']
    exact slaveSend_unsteered v p q (slaveTransmitOpen d s)

/-- The acknowledged address of a write: its first byte goes out (41 R154). -/
theorem addressAnswered_transmitting {s : State} (h : s.txn = .transmitting) :
    addressAnswered true s = writeNext { s with phase := .dataPhase .write } := by
  simp [addressAnswered, h]

/-- The acknowledged address of a read: its first byte is asked for (41 R155). -/
theorem addressAnswered_requesting {s : State} (h : s.txn = .requesting) :
    addressAnswered true s = .next (readNext { s with phase := .dataPhase .read }) := by
  simp [addressAnswered, h]

/-- An acknowledged address with no master transaction is ignored (log 21). -/
theorem addressAnswered_ignored {s : State} (h : s.txn = .idle ∨ s.txn = .slaveAddressed) :
    addressAnswered true s = .next s := by
  rcases h with h | h <;> simp [addressAnswered, h]

theorem addressAnswered_unsteered (ack : Bool) : Unsteered (addressAnswered ack) := by
  refine .ite (hf := fun v p q s => ?_) (hg := unsteered_next (raise_withSettings · · · · .addressNak))
  change addressAnswered true (s.withSettings v p q) = mapNext (State.withSettings v p q) (addressAnswered true s)
  cases h : s.txn with
  | transmitting =>
    rw [addressAnswered_transmitting h, addressAnswered_transmitting (s := s.withSettings v p q) h]
    exact writeNext_unsteered v p q { s with phase := .dataPhase .write }
  | requesting =>
    rw [addressAnswered_requesting h, addressAnswered_requesting (s := s.withSettings v p q) h]
    exact congrArg Host.Outcome.next (readNext_withSettings v p q { s with phase := .dataPhase .read })
  | idle | slaveAddressed =>
    have hi : s.txn = .idle ∨ s.txn = .slaveAddressed := by simp [h]
    rw [addressAnswered_ignored hi, addressAnswered_ignored (s := s.withSettings v p q) hi]
    rfl

theorem byteAnswered_unsteered (ack : Bool) : Unsteered (byteAnswered ack) :=
  .ite (hf := writeNext_unsteered) (hg := unsteered_next (raise_withSettings · · · · .dataNak))

/-! ### Events -/

theorem event_unsteered {i : Instr} {inMaster inSlave : State → Host.Outcome State Fault Refusal}
    (hm : Unsteered inMaster) (hs : Unsteered inSlave) : Unsteered (event i · inMaster inSlave) := by
  intro v p q s
  simp only [event, withSettings_mode]
  cases s.mode with
  | off => rfl
  | master => exact ite_commutes (mapNext (State.withSettings v p q)) (hm v p q s) rfl
  | slave => exact ite_commutes (mapNext (State.withSettings v p q)) (hs v p q s) rfl

theorem execEvStart_unsteered : Unsteered execEvStart := by
  refine event_unsteered (.ite (hf := sendAddress_unsteered) (hg := unsteered_next)) fun v p q s => ?_
  simp only [withSettings_phase]
  rcases s.phase with _ | _ | _ | _ | _ | (_ | _)
  case slaveAddressed.receive => exact congrArg Host.Outcome.next (slaveDeliver_withSettings v p q s)
  all_goals rfl

theorem execEvByte_unsteered (ack : Bool) (d : Byte) : Unsteered (execEvByte ack d) := by
  refine event_unsteered (fun v p q s => ?_) (fun v p q s => ?_) <;> simp only [withSettings_phase]
  · rcases s.phase with _ | _ | _ | (_ | _) | _ | _
    case addressPhase => exact addressAnswered_unsteered ack v p q s
    case dataPhase.write => exact byteAnswered_unsteered ack v p q s
    case dataPhase.read => exact congrArg Host.Outcome.next (byteArrived_withSettings v p q s d)
    all_goals rfl
  · rcases s.phase with _ | _ | _ | _ | _ | (_ | _)
    case slaveAddressed.receive => exact congrArg Host.Outcome.next (pushReceived_withSettings v p q s d)
    case slaveAddressed.transmit =>
      exact ite_commutes (mapNext (State.withSettings v p q)) (slaveSend_unsteered v p q s) rfl
    all_goals rfl

theorem execEvArbLost_unsteered : Unsteered execEvArbLost :=
  event_unsteered (.ite (hf := unsteered_next (raise_withSettings · · · · .arbitrationLost)) (hg := unsteered_next))
    unsteered_next

theorem execEvStop_unsteered : Unsteered execEvStop := by
  refine event_unsteered (.ite (hf := unsteered_next) (hg := unsteered_next)) fun v p q s => ?_
  simp only [withSettings_phase]
  rcases s.phase with _ | _ | _ | _ | _ | (_ | _)
  case slaveAddressed.receive => exact congrArg Host.Outcome.next (slaveDeliver_withSettings v p q s)
  all_goals rfl

theorem execEvAddrMatch_unsteered (d : Byte) : Unsteered (execEvAddrMatch d) := by
  intro v p q s
  simp only [execEvAddrMatch, withSettings_mode]
  cases s.mode with
  | off | master => rfl
  | slave =>
    refine ite_commutes (mapNext (State.withSettings v p q)) rfl ?_
    refine ite_commutes (mapNext (State.withSettings v p q)) rfl ?_
    refine ite_commutes (mapNext (State.withSettings v p q)) rfl ?_
    exact ite_commutes (mapNext (State.withSettings v p q)) (slaveTransmitEntry_unsteered d v p q s) rfl

theorem execEvTimeout_unsteered : Unsteered execEvTimeout := by
  intro v p q s
  simp only [execEvTimeout, withSettings_mode]
  cases s.mode with
  | off | slave => rfl
  | master =>
    exact ite_commutes (mapNext (State.withSettings v p q))
      (congrArg Host.Outcome.next (raise_withSettings v p q s .timeout)) rfl

/-! ### Commands -/

theorem command_unsteered (c : Command) {body : State → Host.Outcome State Fault Refusal} (h : Unsteered body) :
    Unsteered (command c · body) := by
  intro v p q s
  simp only [command, gate_withSettings]
  cases gate c s with
  | some r => rfl
  | none => exact h v p q s

theorem execEndUnit_unsteered : Unsteered execEndUnit := by
  refine command_unsteered .endUnit (.ite (hf := unsteered_next) (hg := unsteered_next fun v p q s => ?_))
  have hreleased : (if (s.withSettings v p q).busHeld then (s.withSettings v p q).emit .release
      else s.withSettings v p q) = (if s.busHeld then s.emit .release else s).withSettings v p q :=
    ite_commutes (State.withSettings v p q) rfl rfl
  rw [hreleased]
  rfl

theorem execBeginTx_unsteered (a : BusAddr) : Unsteered (execBeginTx a) :=
  command_unsteered .beginTx (.ite (hf := unsteered_next) (hg := unsteered_next))

theorem execWrite_unsteered (d : Byte) : Unsteered (execWrite d) :=
  command_unsteered .write (.ite (hg := unsteered_next) (hf := unsteered_next fun v p q s => by
    rw [stageByte_withSettings]; rfl))

theorem execRead_unsteered : Unsteered execRead := by
  refine command_unsteered .read fun v p q s => ?_
  rw [takeByte_withSettings]
  cases s.takeByte <;> rfl

theorem execPeek_unsteered : Unsteered execPeek := by
  refine command_unsteered .peek fun v p q s => ?_
  rw [withSettings_peek]
  cases s.peek <;> rfl

theorem execCbReturn_unsteered : Unsteered execCbReturn :=
  command_unsteered .cbReturn <| mapNext_unsteered (g := fun t => t.respond 0#24)
    (.ite (hf := fun v p q s => slaveSend_unsteered v p q s.leaveHandler) (hg := unsteered_next))
    fun _ _ _ _ => rfl

/-- Settles O54: each instruction is built of operations that commute with overwriting the settings. -/
theorem dividerAndPinsSteerNothing : Obligations.DividerAndPinsSteerNothing := by
  unfold Obligations.DividerAndPinsSteerNothing
  intro i s v p q hsetClock hgetRate hbeginMaster hbeginSlave hsetPins
  suffices hi : Unsteered (exec i) from hi v p q s
  cases i with
  | beginMaster => exact absurd rfl hbeginMaster
  | beginSlave a => exact absurd rfl (hbeginSlave a)
  | setClock f => exact absurd rfl (hsetClock f)
  | getRate => exact absurd rfl hgetRate
  | setPins c d => exact absurd rfl (hsetPins c d)
  | endUnit => exact execEndUnit_unsteered
  | beginTx a => exact execBeginTx_unsteered a
  | write d => exact execWrite_unsteered d
  | endTx => exact command_unsteered .endTx unsteered_next
  | reqFrom => exact command_unsteered .reqFrom unsteered_next
  | getResult => exact command_unsteered .getResult unsteered_next
  | available => exact command_unsteered .available unsteered_next
  | read => exact execRead_unsteered
  | peek => exact execPeek_unsteered
  | onReceive => exact command_unsteered .onReceive unsteered_next
  | onRequest => exact command_unsteered .onRequest unsteered_next
  | cbReturn => exact execCbReturn_unsteered
  | evStart => exact execEvStart_unsteered
  | evByte ack d => exact execEvByte_unsteered ack d
  | evArbLost => exact execEvArbLost_unsteered
  | evStop => exact execEvStop_unsteered
  | evAddrMatch d => exact execEvAddrMatch_unsteered d
  | evTimeout => exact execEvTimeout_unsteered
  | start | restart | send | recv | stop | release | cbReceive | cbRequest | setDiv | setSaddr | enable | disable =>
    exact fun _ _ _ _ => rfl

end Sys2Proof.Machine
end

section
/-! What each event does in the state it meets, forwards (41_master_sequencer.md R169 to R176, 42_slave_sequencer.md
R201): one equation per listed pair of the event tables, one lemma for the pairs they ignore, and the ends of a
transaction in the form of the statements (41 R161 to R165). Beside them, what each action does (41 R177 to R182). -/

namespace Sys2Proof.Machine

/-! ### The skeleton of an event -/

section Skeleton
variable {i : Instr} {s : State} {inMaster inSlave : State → Host.Outcome State Fault Refusal}

theorem event_off (hm : s.mode = .off) : event i s inMaster inSlave = .next s := by
  simp [event, hm]

theorem event_master (hm : s.mode = .master) (hc : s.cbActive = .noCallback) :
    event i s inMaster inSlave = inMaster s := by
  simp [event, hm, hc]

theorem event_slave (hm : s.mode = .slave) (hc : s.cbActive = .noCallback) :
    event i s inMaster inSlave = inSlave s := by
  simp [event, hm, hc]

end Skeleton

/-! ### The listed pairs of a master -/

section Master
variable {s : State} (ack : Bool) (d : Byte)

theorem exec_evStart_startPending (h : s.Ready .master .startPending) : exec .evStart s = sendAddress s := by
  rw [exec, execEvStart, event_master h.mode h.handler, if_pos h.phase]

theorem exec_evStop_stopPending (h : s.Ready .master .stopPending) : exec .evStop s = .next s.complete := by
  rw [exec, execEvStop, event_master h.mode h.handler, if_pos h.phase]

theorem exec_evByte_addressPhase (h : s.Ready .master .addressPhase) :
    exec (.evByte ack d) s = addressAnswered ack s := by
  rw [exec, execEvByte, event_master h.mode h.handler, h.phase]

theorem exec_evByte_dataPhase_write (h : s.Ready .master (.dataPhase .write)) :
    exec (.evByte ack d) s = byteAnswered ack s := by
  rw [exec, execEvByte, event_master h.mode h.handler, h.phase]

theorem exec_evByte_dataPhase_read (h : s.Ready .master (.dataPhase .read)) :
    exec (.evByte ack d) s = .next (byteArrived d s) := by
  rw [exec, execEvByte, event_master h.mode h.handler, h.phase]

theorem exec_evArbLost_inFlight (h : s.inFlight) (hc : s.cbActive = .noCallback) :
    exec .evArbLost s = .next (s.raise .arbitrationLost) := by
  rw [exec, execEvArbLost, event_master h.1 hc, if_pos h.2]

theorem exec_evTimeout_inFlight (h : s.inFlight) : exec .evTimeout s = .next (s.raise .timeout) := by
  rw [exec, execEvTimeout, h.1]
  exact if_pos h.2

end Master

/-! ### The ignored pairs (log 29) -/

theorem exec_event_off {i : Instr} {s : State} (hm : s.mode = .off) (hi : isEvent i = true) : exec i s = .next s := by
  cases i with
  | evStart => rw [exec, execEvStart, event_off hm]
  | evByte ack d => rw [exec, execEvByte, event_off hm]
  | evArbLost => rw [exec, execEvArbLost, event_off hm]
  | evStop => rw [exec, execEvStop, event_off hm]
  | evAddrMatch d => rw [exec, execEvAddrMatch, hm]
  | evTimeout => rw [exec, execEvTimeout, hm]
  | _ => cases hi

section Ignored
variable {s : State} (ack : Bool) (d : Byte)

theorem exec_evAddrMatch_master (hm : s.mode = .master) : exec (.evAddrMatch d) s = .next s := by
  rw [exec, execEvAddrMatch, hm]

theorem exec_evStart_master_ignored (hm : s.mode = .master) (hc : s.cbActive = .noCallback)
    (hp : s.phase ≠ .startPending) : exec .evStart s = .next s := by
  rw [exec, execEvStart, event_master hm hc, if_neg hp]

theorem exec_evStop_master_ignored (hm : s.mode = .master) (hc : s.cbActive = .noCallback)
    (hp : s.phase ≠ .stopPending) : exec .evStop s = .next s := by
  rw [exec, execEvStop, event_master hm hc, if_neg hp]

theorem exec_evByte_master_ignored (hm : s.mode = .master) (hc : s.cbActive = .noCallback)
    (hp : s.phase = .idle ∨ s.phase = .startPending ∨ s.phase = .stopPending) :
    exec (.evByte ack d) s = .next s := by
  rw [exec, execEvByte, event_master hm hc]
  rcases hp with hp | hp | hp <;> rw [hp]

/-- An idle master ignores every event. -/
theorem exec_event_masterIdle {i : Instr} (h : s.Ready .master .idle) (hi : isEvent i = true) :
    exec i s = .next s := by
  obtain ⟨hm, hc, hp⟩ := h
  have hnot : s.phase.masterInFlight ≠ true := by simp [hp, Phase.masterInFlight]
  cases i with
  | evStart => exact exec_evStart_master_ignored hm hc (by simp [hp])
  | evByte ack d => exact exec_evByte_master_ignored ack d hm hc (.inl hp)
  | evArbLost => rw [exec, execEvArbLost, event_master hm hc, if_neg hnot]
  | evStop => exact exec_evStop_master_ignored hm hc (by simp [hp])
  | evAddrMatch d => exact exec_evAddrMatch_master d hm
  | evTimeout => rw [exec, execEvTimeout, hm]; exact if_neg hnot
  | _ => cases hi

theorem exec_evTimeout_slave (hm : s.mode = .slave) : exec .evTimeout s = .next s := by
  rw [exec, execEvTimeout, hm]

theorem exec_evArbLost_slave (hm : s.mode = .slave) (hc : s.cbActive = .noCallback) :
    exec .evArbLost s = .next s := by
  rw [exec, execEvArbLost, event_slave hm hc]

/-- A slave that is not addressed ignores another slave's address. -/
theorem exec_evAddrMatch_other (h : s.Ready .slave .idle) (ha : addressOf d ≠ s.slaveAddr) :
    exec (.evAddrMatch d) s = .next s := by
  obtain ⟨hm, hc, hp⟩ := h
  simp [exec, execEvAddrMatch, hm, hc, hp, ha]

theorem exec_evStart_slaveIdle (h : s.Ready .slave .idle) : exec .evStart s = .next s := by
  rw [exec, execEvStart, event_slave h.mode h.handler, h.phase]

theorem exec_evStop_slaveIdle (h : s.Ready .slave .idle) : exec .evStop s = .next s := by
  rw [exec, execEvStop, event_slave h.mode h.handler, h.phase]

theorem exec_evByte_slaveIdle (h : s.Ready .slave .idle) : exec (.evByte ack d) s = .next s := by
  rw [exec, execEvByte, event_slave h.mode h.handler, h.phase]

end Ignored

/-- Settles O37: each pair of the tables that is ignored, by its rule above. -/
theorem unlistedEventsAreIgnored : Obligations.UnlistedEventsAreIgnored := by
  unfold Obligations.UnlistedEventsAreIgnored
  intro s ack d
  refine ⟨fun hm _ hi => exec_event_off hm hi, fun hm hc => ?_, fun hm => ⟨exec_evTimeout_slave hm, fun hc => ?_⟩⟩
  · exact ⟨exec_evAddrMatch_master d hm, fun hp _ hi => exec_event_masterIdle ⟨hm, hc, hp⟩ hi,
      exec_evStart_master_ignored hm hc, exec_evStop_master_ignored hm hc,
      fun hp => exec_evByte_master_ignored ack d hm hc (.inr hp)⟩
  · exact ⟨exec_evArbLost_slave hm hc, fun ha hp => exec_evAddrMatch_other d ⟨hm, hc, hp⟩ ha,
      fun hp => ⟨exec_evStart_slaveIdle ⟨hm, hc, hp⟩, exec_evStop_slaveIdle ⟨hm, hc, hp⟩,
        exec_evByte_slaveIdle ack d ⟨hm, hc, hp⟩⟩⟩

/-! ### The ends of a transaction, as the statements say them -/

theorem forceStop_stopsWith (s : State) (st : Status) : StopsWith st s { s with status := st }.forceStop := by
  unfold StopsWith
  rcases State.forceStop_cases { s with status := st } with ⟨h, e⟩ | ⟨h, e⟩ <;> rw [e]
  · exact (if_pos h).mpr rfl
  · exact (if_neg (Bool.eq_false_iff.mp h)).mpr rfl

theorem finishOk_finishesOk (s : State) : FinishesOk s s.finishOk := by
  unfold FinishesOk
  rcases s.finishOk_cases with ⟨h, e⟩ | ⟨h, e⟩ <;> rw [e]
  · exact (if_pos h).mpr (forceStop_stopsWith s .success)
  · exact (if_neg (Bool.eq_false_iff.mp h)).mpr rfl

/-- An abort writes the status, emits RELEASE and completes; a request that timed out reports no byte (41 R165). -/
theorem abort_eq (s : State) (st : Status) :
    s.abort st = { s with
      status := st, phase := .idle, txn := .idle, done := true
      rxLen := if st = .timeout ∧ s.txn = .requesting then 0 else s.rxLen
      rxCur := if s.txn = .requesting then 0 else s.rxCur
      out := s.out ++ [.release], actionPort := s.actionPort ++ [.release] } := by
  rcases s.abort_cases st with ⟨rfl, hk, e⟩ | ⟨h, e⟩ <;> rw [e]
  · simp [State.complete, State.emit, hk]
  · rw [if_neg h]
    rfl

/-! ### The master's events -/

theorem sendAddress_of_byte {s : State} {b : Byte} (hb : s.txByte? 0 = some b) :
    sendAddress s = .next { s.emit (.send b) with txCur := 1, phase := .addressPhase } := by
  simp only [sendAddress, hb]

/-- Settles O30: index 0 exists in every well-formed configuration, so the address byte is there to be sent. -/
theorem startDetectedSendsTheAddressByte : Obligations.StartDetectedSendsTheAddressByte := by
  unfold Obligations.StartDetectedSendsTheAddressByte
  intro s hwf hm hc hp
  have hb := State.txByte?_of_lt (s := s) (one_le_txCapacity_of_wf hwf)
  exact ⟨_, _, hb, (exec_evStart_startPending ⟨hm, hc, hp⟩).trans (sendAddress_of_byte hb), rfl⟩

/-- Settles O31: both NAKs raise their error, which forces a stop. -/
theorem nakIsRecordedAndForcesAStop : Obligations.NakIsRecordedAndForcesAStop := by
  unfold Obligations.NakIsRecordedAndForcesAStop
  intro s d hm hc
  refine ⟨fun hp => ⟨s.raise .addressNak, ?_, forceStop_stopsWith s .addressNak⟩,
    fun hp => ⟨s.raise .dataNak, ?_, forceStop_stopsWith s .dataNak⟩⟩
  · exact exec_evByte_addressPhase false d ⟨hm, hc, hp⟩
  · exact exec_evByte_dataPhase_write false d ⟨hm, hc, hp⟩

/-- A master write waits for the answer to its address byte or to a data byte. -/
def State.AwaitsWriteAck (s : State) : Prop :=
  s.mode = .master ∧ s.cbActive = .noCallback ∧
    (s.phase = .addressPhase ∧ s.txn = .transmitting ∨ s.phase = .dataPhase .write)

/-- Both acknowledges of a write go on with the next byte (41 R154, R157). -/
theorem exec_evByte_writeAcked {s : State} (d : Byte) (h : s.AwaitsWriteAck) :
    exec (.evByte true d) s = writeNext { s with phase := .dataPhase .write } := by
  obtain ⟨hm, hc, ⟨hp, hk⟩ | hp⟩ := h
  · rw [exec_evByte_addressPhase true d ⟨hm, hc, hp⟩, addressAnswered_transmitting hk]
  · rw [exec_evByte_dataPhase_write true d ⟨hm, hc, hp⟩, ← hp]
    rfl

theorem writeNext_of_byte {s : State} {b : Byte} (h : s.txCur < s.txLen) (hb : s.txByte? s.txCur = some b) :
    writeNext s = .next { s.emit (.send b) with txCur := s.txCur + 1, phase := .dataPhase .write } := by
  simp [writeNext, h, hb]

theorem writeNext_of_end {s : State} (h : s.txLen ≤ s.txCur) : writeNext s = .next s.finishOk :=
  if_neg (Nat.not_lt.mpr h)

/-- Settles O32: both acknowledges run write_next, which sends the byte at the cursor or ends the data phase. -/
theorem ackedWriteSendsTheNextByteOrFinishes : Obligations.AckedWriteSendsTheNextByteOrFinishes := by
  unfold Obligations.AckedWriteSendsTheNextByteOrFinishes
  intro s d hm hc hp
  rw [exec_evByte_writeAcked d ⟨hm, hc, hp⟩]
  refine ⟨fun hlt hcap => ?_, fun hle => ⟨_, writeNext_of_end hle, finishOk_finishesOk _⟩⟩
  have hb := State.txByte?_of_lt (Nat.lt_of_lt_of_le hlt hcap)
  exact ⟨_, _, hb, writeNext_of_byte hlt hb, rfl⟩

theorem readNext_of_none {s : State} (h : s.rxRemaining = 0) : readNext s = s.finishOk := if_pos h

theorem readNext_of_some {s : State} (h : 1 ≤ s.rxRemaining) :
    readNext s = { s.emit (.recv (decide (2 ≤ s.rxRemaining))) with phase := .dataPhase .read } := by
  rcases readNext_cases s with ⟨h0, _⟩ | ⟨_, e⟩
  · omega
  · exact e

/-- The acknowledged address of a read goes on with its first byte (41 R155). -/
theorem exec_evByte_readAcked {s : State} (d : Byte) (h : s.Ready .master .addressPhase)
    (hk : s.txn = .requesting) :
    exec (.evByte true d) s = .next (readNext { s with phase := .dataPhase .read }) := by
  rw [exec_evByte_addressPhase true d h, addressAnswered_requesting hk]

/-- Settles O33: the acknowledge runs read_next, which asks for a byte or ends the data phase. -/
theorem ackedReadAddressAsksForTheFirstByte : Obligations.AckedReadAddressAsksForTheFirstByte := by
  unfold Obligations.AckedReadAddressAsksForTheFirstByte
  intro s d hm hc hp hk
  rw [exec_evByte_readAcked d ⟨hm, hc, hp⟩ hk]
  exact ⟨fun h0 => ⟨_, congrArg _ (readNext_of_none h0), finishOk_finishesOk _⟩,
    fun h1 => ⟨_, congrArg _ (readNext_of_some h1), rfl⟩⟩

/-- What a received byte leaves in RX: it is read back at the old length if it fitted (20 R66). -/
theorem read?_pushReceived (s : State) (d : Byte) (k : Nat) :
    Memory.read? (s.pushReceived d).rx k =
      if k = s.rxLen ∧ s.rxLen < s.cfg.rxCapacity then some d else Memory.read? s.rx k := by
  by_cases hr : s.rxLen < s.cfg.rxCapacity
  · rw [State.pushReceived_room hr, Memory.read?_write]
    simp [hr]
  · rw [State.pushReceived_full hr]
    simp [hr]

/-- Settles O34: the byte is pushed, then read_next looks at one byte fewer. -/
theorem arrivedByteIsStoredAndTheNextAskedFor : Obligations.ArrivedByteIsStoredAndTheNextAskedFor := by
  unfold Obligations.ArrivedByteIsStoredAndTheNextAskedFor
  intro s ack d hm hc hp _
  have hrem : (s.pushReceived d).rxRemaining = s.rxRemaining := by rw [State.pushReceived_eq]
  refine ⟨{ s.pushReceived d with rxRemaining := (s.pushReceived d).rxRemaining - 1 }, byteArrived d s,
    exec_evByte_dataPhase_read ack d ⟨hm, hc, hp⟩, ?_, read?_pushReceived s d, fun h1 => ?_, fun h2 => ?_⟩
  · rw [State.pushReceived_eq]
  · rw [byteArrived, readNext_of_none (by simp [hrem, h1])]
    exact finishOk_finishesOk _
  · have hnext : decide (2 ≤ s.rxRemaining - 1) = decide (3 ≤ s.rxRemaining) := decide_eq_decide.mpr (by omega)
    rw [byteArrived, readNext_of_some (by simp only [hrem]; omega), ← hnext]
    simp only [State.pushReceived_eq, State.emit, hp]

/-- Settles O35: completion is the whole effect. -/
theorem stopDetectedCompletesTheTransaction : Obligations.StopDetectedCompletesTheTransaction := by
  unfold Obligations.StopDetectedCompletesTheTransaction
  intro s hm hc hp
  exact exec_evStop_stopPending ⟨hm, hc, hp⟩

/-- Settles O36: the five phases are those in flight, and both errors abort. -/
theorem abortReleasesTheBusAndCompletes : Obligations.AbortReleasesTheBusAndCompletes := by
  unfold Obligations.AbortReleasesTheBusAndCompletes
  intro s hm hp
  have hf : s.inFlight := ⟨hm, by rcases hp with hp | hp | hp | hp | hp <;> rw [hp] <;> rfl⟩
  refine ⟨fun hc => ⟨s.abort .arbitrationLost, exec_evArbLost_inFlight hf hc, ?_⟩,
    s.abort .timeout, exec_evTimeout_inFlight hf, ?_⟩ <;> rw [abort_eq] <;> simp

/-! ### The actions -/

/-- Settles O42: an action is its receiver's one register, written. -/
theorem actionsReachTheirReceiver : Obligations.ActionsReachTheirReceiver := by
  unfold Obligations.ActionsReachTheirReceiver
  intro s b ack a
  exact ⟨rfl, rfl, rfl, rfl, rfl, rfl, rfl, rfl, rfl, rfl, rfl, rfl⟩

end Sys2Proof.Machine
end

section
/-! No START and no RESTART while a transaction is in flight (41_master_sequencer.md R184 item 4): what each instruction
appends to the trace outside Idle. -/

namespace Sys2Proof.Machine

/-- What `t` appends to the trace of `s` holds no START and no RESTART. -/
def AppendsNoStart (s t : State) : Prop := ∃ as, t.out = s.out ++ as ∧ .start ∉ as ∧ .restart ∉ as

theorem AppendsNoStart.of_out_eq {s t : State} (h : t.out = s.out) : AppendsNoStart s t :=
  ⟨[], by simp [h], List.not_mem_nil, List.not_mem_nil⟩

theorem AppendsNoStart.emit {s t : State} {a : Act} (h : AppendsNoStart s t)
    (ha : a ≠ .start ∧ a ≠ .restart := by simp) : AppendsNoStart s (t.emit a) := by
  obtain ⟨as, ho, hs, hr⟩ := h
  exact ⟨as ++ [a], by simp [ho], by simp [hs, ha.1.symm], by simp [hr, ha.2.symm]⟩

/-- Only the two issues emit START or RESTART, and both are accepted in Idle only (41 R151, 43 R220). -/
theorem Accepted.appendsNoStart {s t : State} {i : Instr} (h : Accepted s i t) (hp : s.phase ≠ .idle) :
    AppendsNoStart s t := by
  have nothing : AppendsNoStart s s := .of_out_eq rfl
  cases h with
  | beginMaster _ => exact nothing.emit.emit
  | beginSlave a _ _ => exact nothing.emit.emit.emit
  | endUnit _ hi _ => exact absurd hi hp
  | setClock f v _ => exact nothing.emit
  | write d _ => exact .of_out_eq (by rw [stageByte_frame])
  | endTx stop hr _ => exact absurd hr.phase hp
  | reqFrom a stop q hr _ => exact absurd hr.phase hp
  | cbReturnSends _ h =>
    obtain ⟨b, hf⟩ := slaveSend_frame h
    rw [hf]
    exact nothing.emit (a := .send b)
  | _ => exact .of_out_eq rfl

/-- Settles O51: an event never emits the two, a command only from Idle, a refusal and an action emit nothing. -/
theorem noStartWhileInFlight : Obligations.NoStartWhileInFlight := by
  unfold Obligations.NoStartWhileInFlight
  intro i s t hp h
  rcases exec_cases h with ⟨hi, -⟩ | ⟨-, hc⟩ | ha
  · obtain ⟨as, hf, -, has⟩ := event_frame hi h
    rw [List.all_eq_true] at has
    exact ⟨as, (congrArg State.out hf :), fun hm => Bool.false_ne_true (has _ hm),
      fun hm => Bool.false_ne_true (has _ hm)⟩
  · cases hc with
    | refused r => exact AppendsNoStart.of_out_eq rfl
    | answered v hv => exact hv.appendsNoStart hp
  · exact AppendsNoStart.of_out_eq (congrArg State.out ha :)

end Sys2Proof.Machine
end

section
/-! A whole master transaction that meets no error (41_master_sequencer.md R184 items 1 and 2): the closed form of a
write after any number of acknowledges and of a read after any number of bytes, each by induction over the events. -/

namespace Sys2Proof.Machine

theorem execAll_cons {i : Instr} {is : List Instr} {s t : State} (h : exec i s = .next t) :
    execAll (i :: is) s = execAll is t := by
  rw [execAll, h]

/-! ### What a data phase that ends without error leaves -/

section FinishOk
variable (s : State)

theorem finishOk_out : s.finishOk.out = s.out ++ if s.sendStop = true then [.stop] else [] :=
  (congrArg State.out (finishOk_frame s) :)

theorem finishOk_rx : s.finishOk.rx = s.rx := (congrArg State.rx (finishOk_frame s) :)

theorem finishOk_rxRemaining : s.finishOk.rxRemaining = s.rxRemaining :=
  (congrArg State.rxRemaining (finishOk_frame s) :)

theorem forceStop_status : s.forceStop.status = s.status := by
  rcases s.forceStop_cases with ⟨_, e⟩ | ⟨_, e⟩ <;> rw [e] <;> rfl

theorem forceStop_busHeld : s.forceStop.busHeld = s.busHeld := by
  rcases s.forceStop_cases with ⟨_, e⟩ | ⟨_, e⟩ <;> rw [e] <;> rfl

theorem forceStop_rxLen : s.forceStop.rxLen = s.rxLen := by
  rcases s.forceStop_cases with ⟨_, e⟩ | ⟨_, e⟩ <;> rw [e] <;> rfl

theorem forceStop_phase_eq : s.forceStop.phase = if s.cfg.stopDetect = true then .stopPending else .idle := by
  rcases s.forceStop_cases with ⟨h, e⟩ | ⟨h, e⟩ <;> rw [e, h] <;> rfl

theorem finishOk_status : s.finishOk.status = .success := by
  rcases s.finishOk_cases with ⟨_, e⟩ | ⟨_, e⟩ <;> rw [e]
  · exact forceStop_status _
  · rfl

theorem finishOk_busHeld : s.finishOk.busHeld = (s.busHeld || !s.sendStop) := by
  rcases s.finishOk_cases with ⟨h, e⟩ | ⟨h, e⟩ <;> rw [e]
  · simp [forceStop_busHeld, h]
  · simp [h]

theorem finishOk_rxLen : s.finishOk.rxLen = s.rxLen := by
  rcases s.finishOk_cases with ⟨_, e⟩ | ⟨_, e⟩ <;> rw [e]
  · exact forceStop_rxLen _
  · rfl

theorem finishOk_phase_eq :
    s.finishOk.phase = if s.sendStop = true ∧ s.cfg.stopDetect = true then .stopPending else .idle := by
  rcases s.finishOk_cases with ⟨h, e⟩ | ⟨h, e⟩ <;> rw [e]
  · simp [forceStop_phase_eq, h]
  · simp [h]

end FinishOk

/-! ### A write -/

/-- The byte at index `i` of TX, where the index exists (20 R60; log 8). -/
def State.txByte (s : State) (i : Nat) : Byte := (s.tx.read? i).getD (Config.unwrittenTx s.bufEpoch i)

theorem txByte?_eq_txByte {s : State} {i : Nat} (h : i < s.cfg.txCapacity) : s.txByte? i = some (s.txByte i) :=
  State.txByte?_of_lt h

/-- The `n` bytes of TX from index `i` on. -/
def State.txBytes (s : State) (i n : Nat) : List Byte := (List.range' i n).map s.txByte

theorem txBytes_succ (s : State) (i n : Nat) : s.txBytes i (n + 1) = s.txByte i :: s.txBytes (i + 1) n := by
  simp [State.txBytes, List.range'_succ]

theorem txBytes_length (s : State) (i n : Nat) : (s.txBytes i n).length = n := by simp [State.txBytes]

theorem txBytes_getElem? {s : State} {i n k : Nat} (h : k < n) : (s.txBytes i n)[k]? = some (s.txByte (i + k)) := by
  simp [State.txBytes, h]

/-- `s` in the data phase of a write, after `n` more of its staged bytes went out. -/
def State.afterSends (s : State) (n : Nat) : State :=
  { s with
    txCur := s.txCur + n
    phase := .dataPhase .write
    out := s.out ++ (s.txBytes s.txCur n).map Act.send
    actionPort := s.actionPort ++ (s.txBytes s.txCur n).map Act.send }

theorem afterSends_zero (s : State) : s.afterSends 0 = { s with phase := .dataPhase .write } := by
  simp [State.afterSends, State.txBytes]

/-- One byte, then `n` more. -/
theorem afterSends_one_afterSends (s : State) (n : Nat) : (s.afterSends 1).afterSends n = s.afterSends (n + 1) := by
  have hbytes : s.txBytes s.txCur (n + 1) = s.txBytes s.txCur 1 ++ (s.afterSends 1).txBytes (s.txCur + 1) n :=
    txBytes_succ s s.txCur n
  have hcur : s.txCur + (n + 1) = s.txCur + 1 + n := by omega
  rw [State.afterSends, State.afterSends, State.afterSends, hbytes, hcur]
  simp only [List.map_append, List.append_assoc]
  rfl

/-- The acknowledge that brings one more staged byte. -/
theorem exec_evByte_sends {s : State} (d : Byte) (h : s.AwaitsWriteAck) (hlt : s.txCur < s.txLen)
    (hcap : s.txLen ≤ s.cfg.txCapacity) : exec (.evByte true d) s = .next (s.afterSends 1) := by
  have hb : s.txByte? s.txCur = some (s.txByte s.txCur) := txByte?_eq_txByte (Nat.lt_of_lt_of_le hlt hcap)
  rw [exec_evByte_writeAcked d h]
  exact writeNext_of_byte hlt hb

/-- A write with `n` staged bytes to go sends them, one an acknowledge, and one more acknowledge ends it. -/
theorem execAll_acks {s : State} {n : Nat} {acks : List Byte} (h : s.AwaitsWriteAck) (hn : s.txLen = s.txCur + n)
    (hcap : s.txLen ≤ s.cfg.txCapacity) (ha : acks.length = n + 1) :
    execAll (acks.map (Instr.evByte true)) s = .next (s.afterSends n).finishOk := by
  induction n generalizing s acks with
  | zero =>
    obtain ⟨d, rfl⟩ := List.length_eq_one_iff.mp ha
    rw [afterSends_zero]
    exact execAll_cons ((exec_evByte_writeAcked d h).trans (writeNext_of_end hn.le))
  | succ n ih =>
    obtain ⟨d, rest, rfl⟩ := List.exists_cons_of_length_eq_add_one ha
    have hone : (s.afterSends 1).AwaitsWriteAck := by
      obtain ⟨hm, hc, -⟩ := h
      exact ⟨hm, hc, .inr rfl⟩
    have hn' : (s.afterSends 1).txLen = (s.afterSends 1).txCur + n := by
      simp only [State.afterSends]; omega
    rw [List.map_cons, execAll_cons (exec_evByte_sends d h (by omega) hcap),
      ih hone hn' hcap (Nat.succ.inj ha), afterSends_one_afterSends]

/-- Settles O55: EV_START sends the address byte, the acknowledges the staged bytes behind it, and the last one ends
the data phase. -/
theorem masterWriteSendsExactlyTheStagedBytes : Obligations.MasterWriteSendsExactlyTheStagedBytes := by
  unfold Obligations.MasterWriteSendsExactlyTheStagedBytes
  intro s acks hm hc hp hk h1 hcap ha
  obtain ⟨n, hn⟩ : ∃ n, s.txLen = n + 1 := ⟨s.txLen - 1, by omega⟩
  have haddr := sendAddress_of_byte (txByte?_eq_txByte (s := s) (i := 0) (by omega))
  have hacks := execAll_acks (s := { s.emit (.send (s.txByte 0)) with txCur := 1, phase := .addressPhase })
    ⟨hm, hc, .inl ⟨rfl, hk⟩⟩ (hn.trans (Nat.add_comm n 1)) hcap (ha.trans hn)
  refine ⟨s.txBytes 0 s.txLen, _, txBytes_length .., fun k hlt => ?_,
    (execAll_cons ((exec_evStart_startPending ⟨hm, hc, hp⟩).trans haddr)).trans hacks, ?_,
    finishOk_status _, finishOk_busHeld _, finishOk_phase_eq _⟩
  · rw [txBytes_getElem? hlt, Nat.zero_add, txByte?_eq_txByte (Nat.lt_of_lt_of_le hlt hcap)]
  · rw [finishOk_out, hn, txBytes_succ]
    simp only [State.afterSends, State.emit_out, List.map_cons, List.append_assoc]
    rfl

/-! ### A read -/

/-- `s` in the data phase of a read, after one byte was asked for and arrived. -/
def State.afterByte (s : State) (d : Byte) : State :=
  { s.pushReceived d with
    rxRemaining := s.rxRemaining - 1
    out := s.out ++ [.recv (decide (2 ≤ s.rxRemaining))]
    actionPort := s.actionPort ++ [.recv (decide (2 ≤ s.rxRemaining))] }

theorem afterByte_eq (s : State) (d : Byte) :
    s.afterByte d = { s with
      rx := if s.rxLen < s.cfg.rxCapacity then s.rx.write s.rxLen d else s.rx
      rxLen := if s.rxLen < s.cfg.rxCapacity then s.rxLen + 1 else s.rxLen
      rxRemaining := s.rxRemaining - 1
      out := s.out ++ [.recv (decide (2 ≤ s.rxRemaining))]
      actionPort := s.actionPort ++ [.recv (decide (2 ≤ s.rxRemaining))] } := by
  rw [State.afterByte, State.pushReceived_eq]

/-- A byte that was asked for arrives, and read_next looks at what is left (41 R160). -/
theorem exec_evByte_asked {s : State} (ack : Bool) (d : Byte) (h : s.Ready .master (.dataPhase .read))
    (h1 : 1 ≤ s.rxRemaining) : exec (.evByte ack d) (readNext s) = .next (readNext (s.afterByte d)) := by
  obtain ⟨hm, hc, hp⟩ := h
  have hready : (readNext s).Ready .master (.dataPhase .read) := by
    rw [readNext_of_some h1]
    exact ⟨hm, hc, rfl⟩
  have harrived : byteArrived d (readNext s) = readNext (s.afterByte d) := by
    rw [readNext_of_some h1, byteArrived, State.pushReceived_eq, afterByte_eq, hp]
    rfl
  rw [exec_evByte_dataPhase_read ack d hready, harrived]

theorem afterByte_ready {s : State} {m : Mode} {p : Phase} (d : Byte) (h : s.Ready m p) :
    (s.afterByte d).Ready m p := by
  rw [afterByte_eq]
  exact ⟨h.mode, h.handler, h.phase⟩

theorem afterByte_rxRemaining (s : State) (d : Byte) : (s.afterByte d).rxRemaining = s.rxRemaining - 1 := rfl

/-- A read that looks at what is left asks for and takes every byte still wanted, and ends. -/
theorem execAll_arrivals {s : State} {arrivals : List (Bool × Byte)} (h : s.Ready .master (.dataPhase .read))
    (hn : arrivals.length = s.rxRemaining) :
    execAll (arrivals.map fun p => Instr.evByte p.1 p.2) (readNext s) =
      .next ((arrivals.map Prod.snd).foldl State.afterByte s).finishOk := by
  induction arrivals generalizing s with
  | nil => exact congrArg _ (readNext_of_none hn.symm)
  | cons p rest ih =>
    rw [List.length_cons] at hn
    have hrest : rest.length = (s.afterByte p.2).rxRemaining := by rw [afterByte_rxRemaining]; omega
    rw [List.map_cons, execAll_cons (exec_evByte_asked p.1 p.2 h (by omega)), ih (afterByte_ready p.2 h) hrest]
    rfl

/-- How many of `bs` fit in RX behind the bytes received already (20 R66). -/
def State.rxFitting (s : State) (bs : List Byte) : Nat := min bs.length (s.cfg.rxCapacity - s.rxLen)

/-- What asks for `n` bytes: RECV with ACK for all but the last, with NAK for the last (41 R159). -/
def recvs : Nat → List Act
  | 0 => []
  | n + 1 => .recv (decide (1 ≤ n)) :: recvs n

theorem recvs_succ (n : Nat) : recvs (n + 1) = List.replicate n (.recv true) ++ [.recv false] := by
  induction n with
  | zero => rfl
  | succ n ih => rw [recvs, ih, List.replicate_succ]; simp

/-- The bytes that fit are stored in order from the end of RX on, the others dropped; each was asked for. -/
theorem foldl_afterByte_eq {s : State} {bs : List Byte} (hn : s.rxRemaining = bs.length) :
    bs.foldl State.afterByte s = { s with
      rx := s.rx.writeFrom s.rxLen (bs.take (s.rxFitting bs))
      rxLen := s.rxLen + s.rxFitting bs
      rxRemaining := 0
      out := s.out ++ recvs bs.length
      actionPort := s.actionPort ++ recvs bs.length } := by
  induction bs generalizing s with
  | nil =>
    simp only [State.rxFitting, List.length_nil, Nat.zero_min, List.take_nil, Memory.writeFrom, recvs,
      List.append_nil, Nat.add_zero, List.foldl_nil]
    rw [List.length_nil] at hn
    rw [← hn]
  | cons b rest ih =>
    rw [List.length_cons] at hn
    have hrest : (s.afterByte b).rxRemaining = rest.length := by rw [afterByte_rxRemaining]; omega
    have hask : decide (2 ≤ s.rxRemaining) = decide (1 ≤ rest.length) := decide_eq_decide.mpr (by omega)
    rw [List.foldl_cons, ih hrest]
    by_cases hr : s.rxLen < s.cfg.rxCapacity
    · have hfit : s.rxFitting (b :: rest) = (s.afterByte b).rxFitting rest + 1 := by
        simp only [State.rxFitting, afterByte_eq, if_pos hr, List.length_cons]
        omega
      rw [hfit, List.take_succ_cons]
      simp only [afterByte_eq, if_pos hr, hask, Memory.writeFrom, recvs, List.length_cons, List.append_assoc,
        List.singleton_append, Nat.add_assoc, Nat.add_comm 1]
    · obtain ⟨hfit, hfit'⟩ : s.rxFitting (b :: rest) = 0 ∧ (s.afterByte b).rxFitting rest = 0 := by
        simp only [State.rxFitting, afterByte_eq, if_neg hr]
        omega
      rw [hfit, hfit']
      simp only [afterByte_eq, if_neg hr, hask, List.take_zero, Memory.writeFrom, recvs, List.length_cons,
        List.append_assoc, List.singleton_append, Nat.add_zero]

/-- Settles O56: the acknowledge runs read_next, every arrival runs it again with one byte fewer, and the bytes that fit
are read back where they were stored. -/
theorem masterReadAcknowledgesAllButTheLast : Obligations.MasterReadAcknowledgesAllButTheLast := by
  unfold Obligations.MasterReadAcknowledgesAllButTheLast
  intro s first arrivals hm hc hp hk h1 hcap hn
  have hopen := exec_evByte_readAcked first ⟨hm, hc, hp⟩ hk
  have hrun := execAll_arrivals (s := { s with phase := .dataPhase .read }) ⟨hm, hc, rfl⟩ hn
  have hlen : (arrivals.map Prod.snd).length = s.rxRemaining := (List.length_map _).trans hn
  rw [foldl_afterByte_eq (s := { s with phase := .dataPhase .read }) hlen.symm] at hrun
  refine ⟨_, (execAll_cons hopen).trans hrun, ?_, finishOk_status _, ?_, finishOk_rxRemaining _, fun k hk hfit => ?_⟩
  · obtain ⟨n, hn⟩ : ∃ n, s.rxRemaining = n + 1 := ⟨s.rxRemaining - 1, by omega⟩
    rw [finishOk_out, hlen, hn, recvs_succ]
    simp
  · rw [finishOk_rxLen]
    simp only [State.rxFitting, hlen]
    omega
  · have hkept : k < State.rxFitting { s with phase := .dataPhase .read } (arrivals.map Prod.snd) := by
      simp only [State.rxFitting, hlen]
      omega
    rw [finishOk_rx, ← List.getElem?_map, ← List.getElem?_take_of_lt hkept]
    exact Memory.read?_writeFrom_inside (hkept.trans_eq (List.length_take_of_le (Nat.min_le_left _ _)).symm)

end Sys2Proof.Machine
end

section
/-! What each event does to a slave, forwards (42_slave_sequencer.md R191 to R201), and the statements of R191 to R200
about one event each. -/

namespace Sys2Proof.Machine

/-! ### The listed pairs of a slave -/

section Slave
variable {s : State} {i : Instr} (d : Byte)

theorem exec_evAddrMatch_write (h : s.Ready .slave .idle) (ha : addressOf d = s.slaveAddr) (hd : readBit d = false) :
    exec (.evAddrMatch d) s = .next (slaveReceiveEntry s) := by
  obtain ⟨hm, hc, hp⟩ := h
  simp [exec, execEvAddrMatch, hm, hc, hp, ha, hd]

theorem exec_evAddrMatch_read (h : s.Ready .slave .idle) (ha : addressOf d = s.slaveAddr) (hd : readBit d = true) :
    exec (.evAddrMatch d) s = slaveTransmitEntry d s := by
  obtain ⟨hm, hc, hp⟩ := h
  simp [exec, execEvAddrMatch, hm, hc, hp, ha, hd]

theorem exec_evByte_slaveReceive (ack : Bool) (h : s.Ready .slave (.slaveAddressed .receive)) :
    exec (.evByte ack d) s = .next (s.pushReceived d) := by
  rw [exec, execEvByte, event_slave h.mode h.handler, h.phase]

theorem exec_slaveReceive_end (h : s.Ready .slave (.slaveAddressed .receive)) (hi : i = .evStop ∨ i = .evStart) :
    exec i s = .next (slaveDeliver s) := by
  rcases hi with rfl | rfl
  · rw [exec, execEvStop, event_slave h.mode h.handler, h.phase]
  · rw [exec, execEvStart, event_slave h.mode h.handler, h.phase]

theorem exec_evByte_slaveTransmit_acked (h : s.Ready .slave (.slaveAddressed .transmit)) :
    exec (.evByte true d) s = slaveSend s := by
  rw [exec, execEvByte, event_slave h.mode h.handler, h.phase]
  rfl

theorem exec_slaveTransmit_end (h : s.Ready .slave (.slaveAddressed .transmit))
    (hi : i = .evByte false d ∨ i = .evStop ∨ i = .evStart) : exec i s = .next (slaveDone s) := by
  rcases hi with rfl | rfl | rfl
  · rw [exec, execEvByte, event_slave h.mode h.handler, h.phase]
    rfl
  · rw [exec, execEvStop, event_slave h.mode h.handler, h.phase]
  · rw [exec, execEvStart, event_slave h.mode h.handler, h.phase]

end Slave

/-! ### The procedures, as the statements say them -/

/-- The slave hands over its next byte unless one is staged at an index that does not exist (42 R194, 20 R71). -/
theorem slaveSend_sends {s : State} (hcap : s.txCur < s.txLen → s.txCur < s.cfg.txCapacity) :
    ∃ t, slaveSend s = .next t ∧ SendsSlaveByte s t := by
  rcases slaveSend_cases s with ⟨b, hlt, hb, e⟩ | ⟨hlt, e⟩ | ⟨hlt, hout, _⟩
  · exact ⟨_, e, (if_pos hlt).mpr ⟨b, hb, rfl⟩⟩
  · refine ⟨_, e, (if_neg hlt).mpr ⟨s.fillByte.1, ?_⟩⟩
    rcases fillByte_cases s with ⟨b, hb, e⟩ | ⟨hb, e⟩ <;> rw [e]
    · exact ⟨fun f hf => Option.some.inj (hb.symm.trans hf), rfl⟩
    · exact ⟨fun f hf => absurd (hb.symm.trans hf) nofun, rfl⟩
  · exact absurd (hcap hlt) (Nat.not_lt.mpr hout)

/-- The end of a remote write: delivered to the handler, if there is one (42 R196). -/
theorem slaveDeliver_cases (s : State) :
    (s.cbReceive = none ∧ slaveDeliver s = slaveDone s) ∨
    (s.cbReceive ≠ none ∧
      slaveDeliver s = (slaveDone s).enterHandler .receive (.cbReceive (countByte s.rxLen))) := by
  cases h : s.cbReceive <;> simp [slaveDeliver, h]

/-- Settles O38: a write match clears RX; a read match stages the address byte, then enters the handler or sends. -/
theorem addressMatchOpensTheSlaveTransaction : Obligations.AddressMatchOpensTheSlaveTransaction := by
  unfold Obligations.AddressMatchOpensTheSlaveTransaction
  intro s d hm hc hp ha
  refine ⟨fun hd => exec_evAddrMatch_write d ⟨hm, hc, hp⟩ ha hd, fun hd => ?_⟩
  rw [exec_evAddrMatch_read d ⟨hm, hc, hp⟩ ha hd]
  have hother : ∀ k, k ≠ 0 → Memory.read? (s.tx.write 0 d) k = Memory.read? s.tx k :=
    fun _ => Memory.read?_write_other s.tx d
  rcases slaveTransmitEntry_cases d s with ⟨hk, e⟩ | ⟨hk, e⟩ <;> rw [e]
  · exact ⟨_, rfl, Memory.read?_write_same s.tx 0 d, hother, fun _ => rfl, fun h => absurd h hk⟩
  · obtain ⟨t, ht, hsends⟩ := slaveSend_sends (s := slaveTransmitOpen d s) (absurd · (Nat.lt_irrefl 1))
    have htx : t.tx = s.tx.write 0 d := (slaveSend_sameBytes ht).1
    refine ⟨t, ht, ?_, ?_, fun h => absurd hk h, fun _ => ?_⟩ <;> rw [htx]
    · exact Memory.read?_write_same s.tx 0 d
    · exact hother
    · exact hsends

/-- Settles O39: each byte is pushed, and both endings deliver. -/
theorem slaveReceiveStoresThenDelivers : Obligations.SlaveReceiveStoresThenDelivers := by
  unfold Obligations.SlaveReceiveStoresThenDelivers
  intro s ack d hm hc hp
  refine ⟨⟨_, exec_evByte_slaveReceive d ack ⟨hm, hc, hp⟩, read?_pushReceived s d, ?_⟩,
    fun i hi => ⟨_, exec_slaveReceive_end ⟨hm, hc, hp⟩ hi, ?_⟩⟩
  · rw [State.pushReceived_eq]
  · rcases slaveDeliver_cases s with ⟨hk, e⟩ | ⟨hk, e⟩ <;> rw [e]
    · exact ⟨fun _ => rfl, fun h => absurd hk h⟩
    · exact ⟨fun h => absurd h hk, fun _ => rfl⟩

/-- Settles O40: an acknowledge runs slave_send, the three endings go back to Idle. -/
theorem slaveTransmitSendsUntilTheMasterEnds : Obligations.SlaveTransmitSendsUntilTheMasterEnds := by
  unfold Obligations.SlaveTransmitSendsUntilTheMasterEnds
  intro s d hm hc hp
  refine ⟨fun hcap => ?_, fun i hi => exec_slaveTransmit_end d ⟨hm, hc, hp⟩ hi⟩
  rw [exec_evByte_slaveTransmit_acked d ⟨hm, hc, hp⟩]
  exact slaveSend_sends fun hlt => Nat.lt_of_lt_of_le hlt hcap

/-! ### Held events -/

theorem event_held {i : Instr} {s : State} {inMaster inSlave : State → Host.Outcome State Fault Refusal}
    (hm : s.mode ≠ .off) (hc : s.cbActive ≠ .noCallback) : event i s inMaster inSlave = .next (s.hold i) := by
  cases h : s.mode with
  | off => exact absurd h hm
  | master => simp [event, h, hc]
  | slave => simp [event, h, hc]

/-- An event's word goes to the event port (30 R102). -/
theorem encode_event {i : Instr} (hi : isEvent i = true) : encode i = .evt (eventWord i) := by
  cases i with
  | evStart | evByte | evArbLost | evStop | evAddrMatch | evTimeout => rfl
  | _ => cases hi

/-- A handler holds every event but the wait bound (42 R200). -/
theorem exec_event_slave_handler {i : Instr} {s : State} (hi : isEvent i = true) (ht : i ≠ .evTimeout)
    (hm : s.mode = .slave) (hc : s.cbActive ≠ .noCallback) : exec i s = .next (s.hold i) := by
  have hoff : s.mode ≠ .off := by simp [hm]
  cases i with
  | evStart => rw [exec, execEvStart, event_held hoff hc]
  | evByte ack d => rw [exec, execEvByte, event_held hoff hc]
  | evArbLost => rw [exec, execEvArbLost, event_held hoff hc]
  | evStop => rw [exec, execEvStop, event_held hoff hc]
  | evAddrMatch d => simp [exec, execEvAddrMatch, hm, hc]
  | evTimeout => exact absurd rfl ht
  | _ => cases hi

/-- An addressed slave holds the next address match (42 R191). -/
theorem exec_evAddrMatch_addressed {s : State} (d : Byte) (hm : s.mode = .slave) (hp : s.phase ≠ .idle) :
    exec (.evAddrMatch d) s = .next (s.hold (.evAddrMatch d)) := by
  simp [exec, execEvAddrMatch, hm, hp]

/-- Settles O41: held by the handler, or by the transaction that is still open. -/
theorem handlersHoldEveryEvent : Obligations.HandlersHoldEveryEvent := by
  unfold Obligations.HandlersHoldEveryEvent
  intro s i hi ht hm h
  refine ⟨eventWord i, encode_event hi, ?_⟩
  rcases h with hc | ⟨hp, d, rfl⟩
  · exact exec_event_slave_handler hi ht hm hc
  · exact exec_evAddrMatch_addressed d hm hp

end Sys2Proof.Machine
end

section
/-! No action of a bus master in slave mode (42_slave_sequencer.md R206 item 4): what each instruction appends to the
trace of a legal slave. -/

namespace Sys2Proof.Machine

/-- What `t` appends to the trace of `s` holds no action of a bus master. -/
def AppendsNoMasterAction (s t : State) : Prop :=
  ∃ as, t.out = s.out ++ as ∧ as.all (fun a => !masterOnly a) = true

theorem AppendsNoMasterAction.of_out_eq {s t : State} (h : t.out = s.out) : AppendsNoMasterAction s t :=
  ⟨[], by simp [h], rfl⟩

theorem AppendsNoMasterAction.of_out {s t : State} {a : Act} (h : t.out = s.out ++ [a])
    (ha : masterOnly a = false := by rfl) : AppendsNoMasterAction s t :=
  ⟨[a], h, by simp [ha]⟩

theorem slaveSend_appendsNoMasterAction {s t : State} (h : slaveSend s = .next t) : AppendsNoMasterAction s t := by
  obtain ⟨b, hf⟩ := slaveSend_frame h
  exact .of_out (a := .send b) (congrArg State.out hf :)

/-- A slave's events are those of 42 R201; the others need a master. -/
theorem EventStep.appendsNoMasterAction {s t : State} {i : Instr} (h : EventStep s i t) (hm : s.mode = .slave) :
    AppendsNoMasterAction s t := by
  have notMaster : s.mode ≠ .master := by simp [hm]
  cases h with
  | ignored | held | transmitEnded | writeMatched => exact .of_out_eq rfl
  | delivered _ _ =>
    rcases slaveDeliver_cases s with ⟨_, e⟩ | ⟨_, e⟩ <;> rw [e]
    · exact .of_out_eq rfl
    · exact .of_out rfl
  | received ack d _ => exact .of_out_eq (by rw [State.pushReceived_eq])
  | nextSent _ h => exact slaveSend_appendsNoMasterAction h
  | requestEntered d _ _ => exact .of_out rfl
  | readAnswered d _ _ h => exact slaveSend_appendsNoMasterAction (s := slaveTransmitOpen d s) h
  | addressSent hr | writeOpened hr | byteTaken hr | stopDetected hr => exact absurd hr.mode notMaster
  | readOpened _ hr | addressRefused _ hr | byteRefused _ hr => exact absurd hr.mode notMaster
  | byteArrived _ _ hr => exact absurd hr.mode notMaster
  | arbitrationLost _ hf | timedOut hf => exact absurd hf.1 notMaster

/-- A slave is begun already, has no issue accepted, and never holds the bus that END would release (10 R38 item 6). -/
theorem Accepted.appendsNoMasterAction {s t : State} {i : Instr} (h : Accepted s i t) (hm : s.mode = .slave)
    (hb : s.busHeld = false) : AppendsNoMasterAction s t := by
  have notMaster : s.mode ≠ .master := by simp [hm]
  cases h with
  | beginMaster hoff => exact absurd (hoff.symm.trans hm) nofun
  | beginSlave a hoff _ => exact absurd (hoff.symm.trans hm) nofun
  | endUnit _ _ _ => exact .of_out (a := .disable) (by simp [hb, State.scrambleBuffers])
  | setClock f v _ => exact .of_out rfl
  | beginTx _ hr | endTx _ hr | reqFrom _ _ _ hr => exact absurd hr.mode notMaster
  | write d _ => exact .of_out_eq (by rw [stageByte_frame])
  | cbReturnSends _ h => exact slaveSend_appendsNoMasterAction (s := s.leaveHandler) h
  | _ => exact .of_out_eq rfl

/-- Settles O52: a slave's events and accepted commands, each by its cases; a refusal and an action emit nothing. -/
theorem slaveModeEmitsNoMasterAction : Obligations.SlaveModeEmitsNoMasterAction := by
  unfold Obligations.SlaveModeEmitsNoMasterAction
  intro i s t hi hm h
  obtain ⟨-, -, hb⟩ := hi.slave hm
  rcases exec_cases h with ⟨-, he⟩ | ⟨-, hc⟩ | ha
  · exact he.appendsNoMasterAction hm
  · cases hc with
    | refused r => exact AppendsNoMasterAction.of_out_eq rfl
    | answered v hv => exact hv.appendsNoMasterAction hm hb
  · exact AppendsNoMasterAction.of_out_eq (congrArg State.out ha :)

end Sys2Proof.Machine
end

section
/-! A whole slave transaction (42_slave_sequencer.md R206 items 1 and 3): what any number of bytes leaves in RX, and
what any number of acknowledges sends, each by induction over the events. -/

namespace Sys2Proof.Machine

theorem execAll_append {is js : List Instr} {s t : State} (h : execAll is s = .next t) :
    execAll (is ++ js) s = execAll js t := by
  induction is generalizing s with
  | nil => cases h; rfl
  | cons i rest ih =>
    rw [execAll] at h
    split at h
    next u hu => rw [List.cons_append, execAll_cons hu, ih h]
    · cases h
    · cases h

/-! ### A remote write -/

/-- The bytes that fit are stored in order from the end of RX on, the others dropped (20 R66). -/
theorem foldl_pushReceived_eq (s : State) (bs : List Byte) :
    bs.foldl State.pushReceived s = { s with
      rx := s.rx.writeFrom s.rxLen (bs.take (s.rxFitting bs)), rxLen := s.rxLen + s.rxFitting bs } := by
  induction bs generalizing s with
  | nil => simp [State.rxFitting, Memory.writeFrom]
  | cons b rest ih =>
    rw [List.foldl_cons, ih]
    by_cases hr : s.rxLen < s.cfg.rxCapacity
    · have hfit : s.rxFitting (b :: rest) = (s.pushReceived b).rxFitting rest + 1 := by
        simp only [State.rxFitting, State.pushReceived_room hr, List.length_cons]
        omega
      rw [hfit, State.pushReceived_room hr, List.take_succ_cons]
      simp only [Memory.writeFrom, Nat.add_assoc, Nat.add_comm 1]
    · have hfit : ∀ cs, s.rxFitting cs = 0 := fun cs => by
        simp only [State.rxFitting]
        omega
      rw [State.pushReceived_full hr, hfit, hfit]
      rfl

/-- A slave receive takes every byte that arrives, acknowledged or not (42 R195). -/
theorem execAll_slaveReceive {s : State} (arrivals : List (Bool × Byte))
    (h : s.Ready .slave (.slaveAddressed .receive)) :
    execAll (arrivals.map fun p => Instr.evByte p.1 p.2) s =
      .next ((arrivals.map Prod.snd).foldl State.pushReceived s) := by
  induction arrivals generalizing s with
  | nil => rfl
  | cons p rest ih =>
    have hready : (s.pushReceived p.2).Ready .slave (.slaveAddressed .receive) := by
      rw [State.pushReceived_eq]
      exact ⟨h.mode, h.handler, h.phase⟩
    rw [List.map_cons, execAll_cons (exec_evByte_slaveReceive p.2 p.1 h), ih hready]
    rfl

theorem slaveDeliver_out (s : State) :
    (slaveDeliver s).out = s.out ++ if s.cbReceive = none then [] else [.cbReceive (countByte s.rxLen)] := by
  rcases slaveDeliver_cases s with ⟨hk, e⟩ | ⟨hk, e⟩ <;> rw [e]
  · rw [if_pos hk, List.append_nil]
    rfl
  · rw [if_neg hk]
    rfl

/-- A remote write leaves the first bytes that arrived in RX, from index 0 on (42 R192, R195). -/
theorem foldl_pushReceived_slaveReceiveEntry (s : State) (bs : List Byte) :
    bs.foldl State.pushReceived (slaveReceiveEntry s) = { slaveReceiveEntry s with
      rx := s.rx.writeFrom 0 (bs.take (min bs.length s.cfg.rxCapacity))
      rxLen := min bs.length s.cfg.rxCapacity } := by
  have hfit : (slaveReceiveEntry s).rxFitting bs = min bs.length s.cfg.rxCapacity := rfl
  rw [foldl_pushReceived_eq, hfit]
  simp only [slaveReceiveEntry, State.resetRx, Nat.zero_add]

/-- Settles O57: the match empties RX, the bytes that fit are stored behind one another, and the end delivers once. -/
theorem slaveReceiveDeliversExactlyOnce : Obligations.SlaveReceiveDeliversExactlyOnce := by
  unfold Obligations.SlaveReceiveDeliversExactlyOnce
  intro s d arrivals last hm hc hp ha hd hlast
  have hopen := exec_evAddrMatch_write d ⟨hm, hc, hp⟩ ha hd
  have hbytes := execAll_slaveReceive arrivals (s := slaveReceiveEntry s) ⟨hm, hc, rfl⟩
  rw [foldl_pushReceived_slaveReceiveEntry, List.length_map] at hbytes
  refine ⟨_, (execAll_append ((execAll_cons hopen).trans hbytes)).trans
    (execAll_cons (exec_slaveReceive_end ⟨hm, hc, rfl⟩ hlast)), slaveDeliver_out _, ?_⟩
  rw [slaveDeliver_frame]
  refine ⟨rfl, rfl, rfl, fun k hk => ?_⟩
  calc Memory.read? (s.rx.writeFrom 0 ((arrivals.map Prod.snd).take (min arrivals.length s.cfg.rxCapacity))) k
      = ((arrivals.map Prod.snd).take (min arrivals.length s.cfg.rxCapacity))[k]? := by
        have hlt : k < ((arrivals.map Prod.snd).take (min arrivals.length s.cfg.rxCapacity)).length := by
          simpa using hk
        simpa using Memory.read?_writeFrom_inside (m := s.rx) (i := 0) hlt
    _ = (arrivals.map Prod.snd)[k]? := List.getElem?_take_of_lt hk
    _ = arrivals[k]?.map Prod.snd := List.getElem?_map

/-! ### A remote read -/

/-- `b` is what a slave transmit hands over `k` bytes from now: the staged byte there, else a fill byte (42 R194). -/
def State.HandsOver (s : State) (k : Nat) (b : Byte) : Prop :=
  if s.txCur + k < s.txLen then s.txByte? (s.txCur + k) = some b
  else ∀ f, s.cfg.slaveTxFill = some f → b = f

/-- One byte handed over: the cursor moves with the staged bytes, so what was one byte further away is next. -/
theorem SendsSlaveByte.handsOver {s t : State} (h : SendsSlaveByte s t) :
    ∃ b, s.HandsOver 0 b ∧ (∀ k c, t.HandsOver k c → s.HandsOver (k + 1) c) ∧
      t = { s with
        txCur := t.txCur, out := s.out ++ [.send b], actionPort := t.actionPort, draws := t.draws } := by
  unfold SendsSlaveByte at h
  split at h
  next hlt =>
    obtain ⟨b, hb, ht⟩ := h
    refine ⟨b, (if_pos hlt).mpr hb, fun k c hk => ?_, ?_⟩
    · rw [ht, State.HandsOver] at hk
      rwa [State.HandsOver, Nat.add_comm k, ← Nat.add_assoc]
    · rw [ht]
  next hlt =>
    obtain ⟨b, hb, ht⟩ := h
    refine ⟨b, (if_neg hlt).mpr hb, fun k c hk => ?_, ?_⟩
    · rw [ht] at hk
      exact (if_neg (by omega)).mpr ((if_neg (by simp only; omega)).mp hk)
    · rw [ht]

/-- A slave transmit hands over one byte an acknowledge (42 R197). -/
theorem execAll_slaveAcks {s : State} (acks : List Byte) (h : s.Ready .slave (.slaveAddressed .transmit))
    (hcap : s.txLen ≤ s.cfg.txCapacity) :
    ∃ (t : State) (bytes : List Byte), execAll (acks.map (Instr.evByte true)) s = .next t ∧
      t.out = s.out ++ bytes.map Act.send ∧ bytes.length = acks.length ∧
      ∀ k b, bytes[k]? = some b → s.HandsOver k b := by
  induction acks generalizing s with
  | nil => exact ⟨s, [], rfl, (List.append_nil _).symm, rfl, nofun⟩
  | cons d rest ih =>
    obtain ⟨u, hu, hsends⟩ := slaveSend_sends fun hlt => Nat.lt_of_lt_of_le hlt hcap
    obtain ⟨b, hnow, hlater, hframe⟩ := hsends.handsOver
    have hready : u.Ready .slave (.slaveAddressed .transmit) := by
      rw [hframe]
      exact ⟨h.mode, h.handler, h.phase⟩
    have hcap' : u.txLen ≤ u.cfg.txCapacity := by
      rw [hframe]
      exact hcap
    obtain ⟨t, bytes, hrun, hout, hlen, hbytes⟩ := ih hready hcap'
    refine ⟨t, b :: bytes, ?_, ?_, congrArg (· + 1) hlen, fun k c hk => ?_⟩
    · rw [List.map_cons, execAll_cons ((exec_evByte_slaveTransmit_acked d h).trans hu), hrun]
    · rw [hout, hframe]
      simp
    · cases k with
      | zero => cases hk; exact hnow
      | succ k => exact hlater k c (hbytes k c hk)

/-- Settles O58: the bytes handed over are the trace's SENDs, staged below the length and fill bytes from it on. -/
theorem slaveTransmitSendsInOrderThenFill : Obligations.SlaveTransmitSendsInOrderThenFill := by
  unfold Obligations.SlaveTransmitSendsInOrderThenFill
  intro s acks hm hc hp hcap
  obtain ⟨t, bytes, hrun, hout, hlen, hbytes⟩ := execAll_slaveAcks acks ⟨hm, hc, hp⟩ hcap
  have hsent : ∀ k, k < acks.length → ∃ b, (bytes.map Act.send)[k]? = some (.send b) ∧ s.HandsOver k b :=
    fun k hk => by
      have hk' : bytes[k]? = some bytes[k] := List.getElem?_eq_getElem (hlen ▸ hk)
      exact ⟨bytes[k], by rw [List.getElem?_map, hk']; rfl, hbytes k _ hk'⟩
  refine ⟨t, bytes.map Act.send, hrun, hout, (List.length_map _).trans hlen, fun k hk => ?_, fun k hk hlt => ?_,
    fun k f hk hle hf => ?_⟩ <;> obtain ⟨b, hb, hover⟩ := hsent k hk
  · exact ⟨b, hb⟩
  · rw [hb, (if_pos hlt).mp hover]
    rfl
  · rw [hb, (if_neg (Nat.not_lt.mpr hle)).mp hover f hf]

end Sys2Proof.Machine
end

section
/-! The commands of the host (43_host_commands.md R220 to R233): the acceptance gate column by column, each transaction
command forwards, and what any number of WRITEs and of events after a request leaves. -/

namespace Sys2Proof.Machine

/-! ### The columns of the gate (R220) -/

/-- Outside Off, outside a handler and in flight: the mode and three lists of commands decide. -/
theorem gate_notIdle {c : Command} {s : State} (hm : s.mode ≠ .off) (hc : s.cbActive = .noCallback)
    (hp : s.phase ≠ .idle) :
    gate c s =
      if c = .beginMaster ∨ c = .beginSlave then some .alreadyBegun
      else if c = .cbReturn then some .noCallback
      else if s.mode = .slave ∧ masterCommands.contains c = true then some .wrongMode
      else if acceptedInFlight.contains c then none
      else if rxReaders.contains c then
        if s.txn = .requesting ∨ s.phase = .slaveAddressed .receive then some .busy else none
      else some .busy := by
  simp [gate, hm, hc, hp]

/-- A master between transactions: only the staging flag is left to ask. -/
theorem gate_masterIdle {c : Command} {s : State} (h : s.Ready .master .idle) :
    gate c s =
      if c = .beginMaster ∨ c = .beginSlave then some .alreadyBegun
      else if c = .cbReturn then some .noCallback
      else if c = .endTx ∧ s.transmitting = false then some .notTransmitting
      else if c = .reqFrom ∧ s.transmitting = true then some .stagingOpen
      else none := by
  obtain ⟨hm, hc, hp⟩ := h
  have hoff : s.mode ≠ .off := by simp [hm]
  simp [gate_idle hoff hc hp, hm]

/-- A master in flight: RX is closed to the readers during a request. -/
theorem gate_masterInFlight {c : Command} {s : State} (hm : s.mode = .master) (hc : s.cbActive = .noCallback)
    (hp : s.phase ≠ .idle) (hr : s.phase ≠ .slaveAddressed .receive) :
    gate c s =
      if c = .beginMaster ∨ c = .beginSlave then some .alreadyBegun
      else if c = .cbReturn then some .noCallback
      else if acceptedInFlight.contains c then none
      else if rxReaders.contains c then if s.txn = .requesting then some .busy else none
      else some .busy := by
  have hoff : s.mode ≠ .off := by simp [hm]
  simp [gate_notIdle hoff hc hp, hm, hr]

/-- A slave that is not addressed: the commands that ask for the staging flag are refused before. -/
theorem gate_slaveIdle {c : Command} {s : State} (h : s.Ready .slave .idle) :
    gate c s =
      if c = .beginMaster ∨ c = .beginSlave then some .alreadyBegun
      else if c = .cbReturn then some .noCallback
      else if masterCommands.contains c then some .wrongMode
      else none := by
  obtain ⟨hm, hc, hp⟩ := h
  have hoff : s.mode ≠ .off := by simp [hm]
  rw [gate_idle hoff hc hp]
  by_cases hmaster : masterCommands.contains c = true
  · simp only [hm, hmaster, and_self, if_true]
  · obtain ⟨hend, hreq⟩ : c ≠ .endTx ∧ c ≠ .reqFrom := by
      revert hmaster
      cases c <;> decide
    simp only [hmaster, hend, hreq, and_false, false_and, if_false, Bool.false_eq_true]

/-- A slave that is addressed, which no request of a master is: RX is closed to the readers while it receives. -/
theorem gate_slaveAddressed {c : Command} {s : State} (hm : s.mode = .slave) (hc : s.cbActive = .noCallback)
    (hp : s.phase ≠ .idle) (hk : s.txn ≠ .requesting) :
    gate c s =
      if c = .beginMaster ∨ c = .beginSlave then some .alreadyBegun
      else if c = .cbReturn then some .noCallback
      else if masterCommands.contains c then some .wrongMode
      else if acceptedInFlight.contains c then none
      else if rxReaders.contains c then if s.phase = .slaveAddressed .receive then some .busy else none
      else some .busy := by
  have hoff : s.mode ≠ .off := by simp [hm]
  simp [gate_notIdle hoff hc hp, hm, hk]

/-- Settles O29: the invariants make the columns exclusive, and in each one the gate asks what its lemma says. -/
theorem gateFollowsTheMatrix : Obligations.GateFollowsTheMatrix := by
  unfold Obligations.GateFollowsTheMatrix
  intro s hi
  refine ⟨fun hm c => ?_, fun hm hp c => ?_, fun hm hp c => ?_, fun hm hp hc c => ?_, fun hm hp hc c => ?_,
    fun hc c => ?_⟩
  · rw [gate_off hm]
    cases c <;> rfl
  · rw [gate_masterIdle ⟨hm, (hi.master hm).1, hp⟩]
    cases s.transmitting <;> cases c <;> rfl
  · obtain ⟨hc, hr, -⟩ := hi.master hm
    rw [gate_masterInFlight hm hc hp hr]
    cases c <;> rfl
  · rw [gate_slaveIdle ⟨hm, hc, hp⟩]
    cases c <;> rfl
  · have hk : s.txn ≠ .requesting := fun hk => by
      have hphase := (hi.slave hm).1
      rcases hi.txn_requesting hk with e | e | e | e <;> simp [e] at hphase
    rw [gate_slaveAddressed hm hc hp hk]
    cases c <;> rfl
  · have hoff : s.mode ≠ .off := fun hm => hc (hi.off hm).2.1
    rw [gate_callback hoff hc]
    cases c <;> rfl

/-! ### A command is its gate and its rule -/

theorem exec_eq_command {i : Instr} {c : Command} (h : commandOf? i = some c) (s : State) :
    ∃ body, exec i s = command c s body := by
  cases i <;> cases h <;> rw [exec] <;> exact ⟨_, rfl⟩

theorem command_of_refused {c : Command} {s : State} {r : Reason} {body : State → Host.Outcome State Fault Refusal}
    (h : gate c s = some r) : command c s body = .next (s.refuse r) := by
  simp [command, h]

theorem exec_of_refused {i : Instr} {c : Command} {s : State} {r : Reason} (hc : commandOf? i = some c)
    (hg : gate c s = some r) : exec i s = .next (s.refuse r) := by
  obtain ⟨body, e⟩ := exec_eq_command hc s
  exact e.trans (command_of_refused hg)

/-- Settles O28: every command is `command` of its name, which goes no further than the gate. -/
theorem refusedCommandsChangeNothing : Obligations.RefusedCommandsChangeNothing := by
  unfold Obligations.RefusedCommandsChangeNothing
  intro i c r s hc hg
  exact exec_of_refused hc hg

/-! ### Commands the gate accepts -/

/-- A command that a handler and a transaction in flight both accept is accepted in every begun state. -/
theorem gate_begun {c : Command} {s : State} (hm : s.mode ≠ .off) (hcb : acceptedInCallback.contains c = true)
    (hfl : acceptedInFlight.contains c = true) : gate c s = none := by
  obtain ⟨hbegin, hret, hmaster, hend, hreq⟩ : ¬(c = .beginMaster ∨ c = .beginSlave) ∧ c ≠ .cbReturn ∧
      masterCommands.contains c = false ∧ c ≠ .endTx ∧ c ≠ .reqFrom := by
    revert hcb hfl
    cases c <;> decide
  by_cases hc : s.cbActive = .noCallback
  · by_cases hp : s.phase = .idle
    · simp only [gate_idle hm hc hp, hbegin, hret, hmaster, hend, hreq, if_false, and_false, false_and,
        Bool.false_eq_true]
    · simp only [gate_notIdle hm hc hp, hbegin, hret, hmaster, hfl, if_false, if_true, and_false,
        Bool.false_eq_true]
  · simp only [gate_callback hm hc, hbegin, hcb, if_false, if_true]

/-- GET_RESULT passes the gate in every begun state outside a handler. -/
theorem gate_getResult {s : State} (hm : s.mode ≠ .off) (hc : s.cbActive = .noCallback) :
    gate .getResult s = none := by
  by_cases hp : s.phase = .idle
  · simp [gate_idle hm hc hp, masterCommands]
  · simp [gate_notIdle hm hc hp, masterCommands, acceptedInFlight]

/-- The readers of RX pass the gate in a handler, in Idle, and in flight while RX is not being filled. -/
theorem gate_rxReader {c : Command} {s : State} (hr : rxReaders.contains c = true) (hm : s.mode ≠ .off)
    (h : s.cbActive ≠ .noCallback ∨ s.phase = .idle ∨ (s.txn ≠ .requesting ∧ s.phase ≠ .slaveAddressed .receive)) :
    gate c s = none := by
  have hmem : c = .available ∨ c = .read ∨ c = .peek := by simpa [rxReaders] using hr
  by_cases hc : s.cbActive = .noCallback
  · by_cases hp : s.phase = .idle
    · rcases hmem with rfl | rfl | rfl <;> simp [gate_idle hm hc hp, masterCommands]
    · obtain ⟨hk, hrecv⟩ := (h.resolve_left (not_not.mpr hc)).resolve_left hp
      rcases hmem with rfl | rfl | rfl <;>
        simp [gate_notIdle hm hc hp, masterCommands, acceptedInFlight, rxReaders, hk, hrecv]
  · rcases hmem with rfl | rfl | rfl <;> simp [gate_callback hm hc, acceptedInCallback]

/-! ### Staging (R221 to R223) -/

/-- The address byte goes to index 0 of TX, every other byte stays (20 R62). -/
theorem read?_stageAddress (s : State) (a : BusAddr) (read : Bool) :
    Memory.read? (s.stageAddress a read).tx 0 = some (a ++ BitVec.ofBool read) ∧
      ∀ k, k ≠ 0 → Memory.read? (s.stageAddress a read).tx k = Memory.read? s.tx k := by
  rw [← addressByte_eq]
  exact ⟨Memory.read?_write_same .., fun _ => Memory.read?_write_other _ _⟩

section Staging
variable {s : State}

theorem exec_beginTx_closed (a : BusAddr) (h : s.Ready .master .idle) (ht : s.transmitting = false) :
    exec (.beginTx a) s = .next ({ s.stageAddress a false with transmitting := true }.respond 0#24) := by
  have hg : gate .beginTx s = none := by simp [gate_masterIdle h]
  rw [exec, execBeginTx, command_of_gate hg]
  simp [ht]

theorem exec_beginTx_open (a : BusAddr) (h : s.Ready .master .idle) (ht : s.transmitting = true) :
    exec (.beginTx a) s = .next (s.respond 0#24) := by
  have hg : gate .beginTx s = none := by simp [gate_masterIdle h]
  rw [exec, execBeginTx, command_of_gate hg]
  simp [ht]

theorem exec_write_staging (d : Byte) (hm : s.mode ≠ .off) (hw : s.transmitting = true ∨ s.cbActive = .request) :
    exec (.write d) s = .next ((s.stageByte d).1.respond (countValue (s.stageByte d).2)) := by
  rw [exec, execWrite, command_of_gate (gate_begun hm rfl rfl), if_pos hw]

theorem exec_write_notStaging (d : Byte) (hm : s.mode ≠ .off)
    (hw : ¬(s.transmitting = true ∨ s.cbActive = .request)) : exec (.write d) s = .next (s.respond 0#24) := by
  rw [exec, execWrite, command_of_gate (gate_begun hm rfl rfl), if_neg hw]

end Staging

/-- Settles O21: the two clauses are the rule with staging closed and with staging open. -/
theorem beginTxStagesTheAddressOnce : Obligations.BeginTxStagesTheAddressOnce := by
  unfold Obligations.BeginTxStagesTheAddressOnce
  intro s a hm hp hc
  refine ⟨fun ht => ?_, exec_beginTx_open a ⟨hm, hc, hp⟩⟩
  obtain ⟨haddr, hother⟩ := read?_stageAddress s a false
  exact ⟨_, exec_beginTx_closed a ⟨hm, hc, hp⟩ ht, haddr, hother, rfl⟩

/-- Settles O22: while staging, the byte is stored where there is room; without room or without staging the answer
is 0. -/
theorem writeStagesOrAnswersZero : Obligations.WriteStagesOrAnswersZero := by
  unfold Obligations.WriteStagesOrAnswersZero
  intro s d hm
  refine ⟨fun ⟨hw, hroom⟩ => ?_, fun h => ?_⟩
  · have e := exec_write_staging d hm hw
    rw [State.stageByte_room hroom] at e
    exact ⟨_, e, Memory.read?_write_same .., fun _ => Memory.read?_write_other _ _, rfl⟩
  · by_cases hw : s.transmitting = true ∨ s.cbActive = .request
    · have hfull : ¬s.txLen < s.cfg.txCapacity := fun hroom => h ⟨hw, hroom⟩
      rw [exec_write_staging d hm hw, State.stageByte_full hfull]
      rfl
    · exact exec_write_notStaging d hm hw

/-! ### The two issues (R224, R225) -/

theorem startMaster_issues (kind : Txn) (s : State) : IssuesMaster kind s ((startMaster kind s).respond 0#24) := rfl

/-- Settles O23: staging open, the rule is start_master; staging closed, the gate refuses. -/
theorem endTxIssuesTheWrite : Obligations.EndTxIssuesTheWrite := by
  unfold Obligations.EndTxIssuesTheWrite
  intro s stop hm hp hc
  have hgate := gate_masterIdle (c := .endTx) ⟨hm, hc, hp⟩
  refine ⟨fun ht => ⟨_, ?_, startMaster_issues ..⟩, fun ht => ?_⟩
  · have hg : gate .endTx s = none := by simp [hgate, ht]
    rw [exec, execEndTx, command_of_gate hg]
  · exact exec_of_refused rfl (by simp [hgate, ht])

/-- What REQ_FROM stages and latches before the read is issued. -/
def State.requested (s : State) (a : BusAddr) (stop : Bool) (q : Byte) : State :=
  { (s.stageAddress a true).resetRx with rxRemaining := q.toNat, sendStop := stop }

theorem exec_reqFrom_closed {s : State} (a : BusAddr) (stop : Bool) (q : Byte) (h : s.Ready .master .idle)
    (ht : s.transmitting = false) :
    exec (.reqFrom a stop q) s = .next ((startMaster .requesting (s.requested a stop q)).respond 0#24) := by
  have hg : gate .reqFrom s = none := by simp [gate_masterIdle h, ht]
  rw [exec, execReqFrom, command_of_gate hg]
  rfl

/-- Settles O24: staging closed, the rule stages the address and starts the read; staging open, the gate refuses. -/
theorem reqFromIssuesTheRead : Obligations.ReqFromIssuesTheRead := by
  unfold Obligations.ReqFromIssuesTheRead
  intro s a stop q hm hp hc
  have hgate := gate_masterIdle (c := .reqFrom) ⟨hm, hc, hp⟩
  refine ⟨fun ht => ?_, fun ht => ?_⟩
  · obtain ⟨haddr, hother⟩ := read?_stageAddress s a true
    exact ⟨_, exec_reqFrom_closed a stop q ⟨hm, hc, hp⟩ ht, haddr, hother, startMaster_issues ..⟩
  · exact exec_of_refused rfl (by simp [hgate, ht])

/-! ### The answers (R226 to R229) -/

theorem toNat_append_eq_mul_add {m n : Nat} (x : BitVec m) (y : BitVec n) :
    (x ++ y).toNat = x.toNat * 2 ^ n + y.toNat := by
  rw [BitVec.toNat_append, ← Nat.shiftLeft_add_eq_or_of_lt y.isLt, Nat.shiftLeft_eq]

/-- The fields of a result by their weights (30 R92). -/
theorem toNat_resultValue {s : State} (hlen : s.rxLen ≤ 255) :
    (resultValue s).toNat =
      (if s.done = true then 65536 else 0) + (statusCode s.cfg.statusCodes s.status).toNat * 256 + s.rxLen := by
  have hmod : s.rxLen % 2 ^ 8 = s.rxLen := Nat.mod_eq_of_lt (by omega)
  simp only [resultValue, toNat_append_eq_mul_add, BitVec.toNat_ofNat, hmod, BitVec.toNat_ofBool]
  cases s.done with
  | false => simp
  | true => simp; omega

/-- Settles O25: the gate accepts, and the value is read field by field. -/
theorem getResultPacksTheOutcome : Obligations.GetResultPacksTheOutcome := by
  unfold Obligations.GetResultPacksTheOutcome
  intro s hm hc hlen
  refine ⟨resultValue s, ?_, toNat_resultValue hlen⟩
  rw [exec, execGetResult, command_of_gate (gate_getResult hm hc)]
  rfl

section Readers
variable {s : State}

theorem takeByte_none (h : s.rxLen ≤ s.rxCur) : s.takeByte = .ok (none, s) := if_neg (Nat.not_lt.mpr h)

theorem peek_none (h : s.rxLen ≤ s.rxCur) : s.peek = .ok none := if_neg (Nat.not_lt.mpr h)

theorem takeByte_some {b : Byte} (h : s.rxCur < s.rxLen) (hb : s.rxByte? s.rxCur = some b) :
    s.takeByte = .ok (some b, { s with rxCur := s.rxCur + 1 }) := by
  simp [State.takeByte, h, hb]

theorem peek_some {b : Byte} (h : s.rxCur < s.rxLen) (hb : s.rxByte? s.rxCur = some b) :
    s.peek = .ok (some b) := by
  simp [State.peek, h, hb]

theorem exec_read_of_takeByte {v : Option Byte} {t : State} (hg : gate .read s = none)
    (h : s.takeByte = .ok (v, t)) : exec .read s = .next (t.respond (readValue s.cfg.noData v)) := by
  rw [exec, execRead, command_of_gate hg, h]

theorem exec_peek_of_peek {v : Option Byte} (hg : gate .peek s = none) (h : s.peek = .ok v) :
    exec .peek s = .next (s.respond (readValue s.cfg.noData v)) := by
  rw [exec, execPeek, command_of_gate hg, h]

end Readers

theorem readValue_some (noData : BitVec 24) (b : Byte) : readValue noData (some b) = 0#16 ++ b :=
  BitVec.setWidth_eq_append (by decide)

/-- Settles O26: the gate accepts the three readers, and whether a byte is unread decides between the byte at the
cursor and NO_DATA. -/
theorem rxReadersAnswerTheNextByte : Obligations.RxReadersAnswerTheNextByte := by
  unfold Obligations.RxReadersAnswerTheNextByte
  intro s hm h
  have havail : gate .available s = none := gate_rxReader rfl hm h
  have hread : gate .read s = none := gate_rxReader rfl hm h
  have hpeek : gate .peek s = none := gate_rxReader rfl hm h
  refine ⟨?_, fun hnone => ?_, fun hsome hcap => ?_⟩
  · rw [exec, execAvailable, command_of_gate havail]
    rfl
  · exact ⟨exec_read_of_takeByte hread (takeByte_none hnone), exec_peek_of_peek hpeek (peek_none hnone)⟩
  · obtain ⟨b, hb⟩ : ∃ b, s.rxByte? s.rxCur = some b := ⟨_, State.rxByte?_of_lt (Nat.lt_of_lt_of_le hsome hcap)⟩
    refine ⟨b, hb, ?_⟩
    rw [← readValue_some s.cfg.noData b]
    exact ⟨exec_read_of_takeByte hread (takeByte_some hsome hb), exec_peek_of_peek hpeek (peek_some hsome hb)⟩

/-! ### Any number of WRITEs (R233 item 1) -/

theorem stageBytes_respond (s : State) (v : BitVec 24) (bs : List Byte) :
    (s.respond v).stageBytes bs = ((s.stageBytes bs).1.respond v, (s.stageBytes bs).2) := by
  rw [stageBytes_eq, stageBytes_eq]
  rfl

/-- WRITEs with staging open stage their bytes, each with its response (R232). -/
theorem execAll_writeBytes {s : State} (bs : List Byte) (hm : s.mode ≠ .off) (ht : s.transmitting = true) :
    ∃ rs, execAll (writeBytes bs) s = .next { (s.stageBytes bs).1 with responses := rs } := by
  induction bs generalizing s with
  | nil => exact ⟨s.responses, rfl⟩
  | cons b rest ih =>
    have hframe := stageByte_frame s b
    have hm' : (s.stageByte b).1.mode ≠ .off := by rw [hframe]; exact hm
    have ht' : (s.stageByte b).1.transmitting = true := by rw [hframe]; exact ht
    obtain ⟨rs, hrs⟩ := ih (s := (s.stageByte b).1.respond (countValue (s.stageByte b).2)) hm' ht'
    refine ⟨rs, (execAll_cons (exec_write_staging b hm (.inl ht))).trans (hrs.trans ?_)⟩
    rw [stageBytes_respond]
    rfl

/-- Settles O59: BEGIN_TX leaves the address byte alone in TX, and the WRITEs stage behind it what fits. -/
theorem writesRetainWhatFits : Obligations.WritesRetainWhatFits := by
  unfold Obligations.WritesRetainWhatFits
  intro s a bs _ hm hp hc ht
  have hbegin := exec_beginTx_closed a ⟨hm, hc, hp⟩ ht
  obtain ⟨rs, hwrites⟩ := execAll_writeBytes
    (s := { s.stageAddress a false with transmitting := true }.respond 0#24) bs (by simp [hm]) rfl
  have hlen : (bs.take (min bs.length (s.cfg.txCapacity - 1))).length = min bs.length (s.cfg.txCapacity - 1) :=
    List.length_take_of_le (Nat.min_le_left _ _)
  rw [stageBytes_eq] at hwrites
  refine ⟨_, (execAll_cons hbegin).trans hwrites, Nat.add_sub_cancel_left .., ?_, fun k hk => ?_⟩
  · exact (Memory.read?_writeFrom_outside (by simp)).trans (Memory.read?_write_same ..)
  · rw [← List.getElem?_take_of_lt hk, Nat.add_comm k 1]
    exact Memory.read?_writeFrom_inside (hlen.symm ▸ hk)

/-! ### Any events after a request (R233 item 2) -/

/-- What an event can do to the counts of a master's RX: it takes a byte that was asked for, or RX does not grow and
as many bytes are still to come. -/
theorem EventStep.rx_counts {s t : State} {i : Instr} (h : EventStep s i t) (hm : s.mode = .master) :
    (t.rxLen ≤ s.rxLen ∧ t.rxRemaining = s.rxRemaining) ∨
    (∃ d, s.phase = .dataPhase .read ∧ t.rxLen ≤ (s.pushReceived d).rxLen ∧ t.rxRemaining = s.rxRemaining - 1) := by
  have of_procedure : ∀ {u : State}, MasterProcedure u t → u.rxLen = s.rxLen → u.rxRemaining = s.rxRemaining →
      t.rxLen ≤ s.rxLen ∧ t.rxRemaining = s.rxRemaining := fun h hl hr =>
    ⟨hl ▸ h.rxLen, h.rxRemaining.trans hr⟩
  have not_slave : ∀ {p : Phase}, ¬s.Ready .slave p := fun hr => nomatch hm.symm.trans hr.mode
  cases h with
  | ignored | held => exact .inl ⟨Nat.le_refl _, rfl⟩
  | addressSent _ _ => exact .inl ⟨Nat.le_refl _, rfl⟩
  | writeOpened _ _ h => exact .inl (of_procedure (writeNext_procedure h) rfl rfl)
  | readOpened d _ _ => exact .inl (of_procedure (readNext_procedure _) rfl rfl)
  | addressRefused d _ => exact .inl (of_procedure (raise_procedure s _) rfl rfl)
  | byteTaken _ h => exact .inl (of_procedure (writeNext_procedure h) rfl rfl)
  | byteRefused d _ => exact .inl (of_procedure (raise_procedure s _) rfl rfl)
  | byteArrived ack d hr =>
    have hread := readNext_procedure { s.pushReceived d with rxRemaining := (s.pushReceived d).rxRemaining - 1 }
    refine .inr ⟨d, hr.phase, hread.rxLen, hread.rxRemaining.trans ?_⟩
    rw [State.pushReceived_eq]
  | stopDetected _ => exact .inl (of_procedure (complete_procedure s) rfl rfl)
  | arbitrationLost _ _ => exact .inl (of_procedure (raise_procedure s _) rfl rfl)
  | timedOut _ => exact .inl (of_procedure (raise_procedure s _) rfl rfl)
  | delivered _ hr => exact absurd hr not_slave
  | transmitEnded _ hr => exact absurd hr not_slave
  | received _ _ hr => exact absurd hr not_slave
  | nextSent hr _ => exact absurd hr not_slave
  | writeMatched _ hr => exact absurd hr not_slave
  | requestEntered _ hr _ => exact absurd hr not_slave
  | readAnswered _ hr _ _ => exact absurd hr not_slave

/-- A master whose request holds, with the bytes still to come, at most `q` bytes, and no more than fit. -/
structure State.RequestWithin (s : State) (q : Nat) : Prop where
  master : s.mode = .master
  counts : s.CountsBytes
  asked  : s.rxLen + s.rxRemaining ≤ q
  fits   : s.rxLen ≤ s.cfg.rxCapacity

theorem State.RequestWithin.of_event {s t : State} {i : Instr} {q : Nat} (hs : s.RequestWithin q)
    (hi : isEvent i = true) (h : exec i s = .next t) : t.RequestWithin q := by
  obtain ⟨hm, hcounts, hasked, hfits⟩ := hs
  have hstep : EventStep s i t := event_step hi h
  obtain ⟨as, hframe, -⟩ := event_frame hi h
  obtain ⟨hcfg, hmode, -⟩ := hframe.latches
  suffices hrx : t.rxLen + t.rxRemaining ≤ q ∧ t.rxLen ≤ s.cfg.rxCapacity from
    ⟨hmode.trans hm, hstep.countsBytes hcounts, hrx.1, hcfg ▸ hrx.2⟩
  rcases hstep.rx_counts hm with ⟨hlen, hrem⟩ | ⟨d, hp, hlen, hrem⟩
  · omega
  · have hawaited : 1 ≤ s.rxRemaining := hcounts.awaited hp
    rw [State.pushReceived_eq] at hlen
    dsimp only at hlen
    split at hlen <;> omega

theorem State.RequestWithin.of_events {s t : State} {events : List Instr} {q : Nat} (hs : s.RequestWithin q)
    (hi : ∀ i ∈ events, isEvent i = true) (h : execAll events s = .next t) :
    t.RequestWithin q ∧ t.cfg = s.cfg := by
  induction events generalizing s with
  | nil => cases h; exact ⟨hs, rfl⟩
  | cons i rest ih =>
    obtain ⟨hhead, hrest⟩ := List.forall_mem_cons.mp hi
    rw [execAll] at h
    split at h
    next u hu =>
      obtain ⟨hwithin, hcfg⟩ := ih (hs.of_event hhead hu) hrest h
      exact ⟨hwithin, hcfg.trans (exec_cfg hu)⟩
    · cases h
    · cases h

/-- Settles O60: the issue empties RX and latches the quantity, and every event keeps what is held and to come within
it. -/
theorem requestNeverExceedsItsQuantity : Obligations.RequestNeverExceedsItsQuantity := by
  unfold Obligations.RequestNeverExceedsItsQuantity
  intro s t a stop q events hm hp hc ht hi h
  rw [execAll_cons (exec_reqFrom_closed a stop q ⟨hm, hc, hp⟩ ht)] at h
  have hissued : ((startMaster .requesting (s.requested a stop q)).respond 0#24).RequestWithin q.toNat :=
    ⟨hm, ⟨Nat.le_of_lt_succ q.isLt, nofun⟩, (Nat.zero_add _).le, Nat.zero_le _⟩
  obtain ⟨⟨-, -, hasked, hfits⟩, hcfg⟩ := hissued.of_events hi h
  exact ⟨Nat.le_of_add_right_le hasked, hfits.trans_eq (congrArg Config.rxCapacity hcfg)⟩

end Sys2Proof.Machine
end

section
/-! The lifecycle, pin and handler commands forwards (44_lifecycle_callbacks.md R250 to R256): what the gate answers
them, and what each rule leaves of the whole state. -/

namespace Sys2Proof.Machine

/-! ### What the gate answers (R220) -/

section Gate
variable {c : Command} {s : State}

/-- The two commands that configure outside a transaction: accepted in Off, and in Idle outside a handler. -/
theorem gate_configure (hc : c = .endUnit ∨ c = .setPins)
    (h : s.mode = .off ∨ (s.phase = .idle ∧ s.cbActive = .noCallback)) : gate c s = none := by
  by_cases hm : s.mode = .off
  · rcases hc with rfl | rfl <;> exact gate_off hm
  · obtain ⟨hp, hcb⟩ := h.resolve_left hm
    rcases hc with rfl | rfl <;> simp [gate_idle hm hcb hp, masterCommands]

/-- The two registrations are in every list of the gate. -/
theorem gate_register (hc : c = .onReceive ∨ c = .onRequest) : gate c s = none := by
  by_cases hm : s.mode = .off
  · rcases hc with rfl | rfl <;> exact gate_off hm
  · rcases hc with rfl | rfl <;> exact gate_begun hm rfl rfl

theorem gate_begin_begun (hc : c = .beginMaster ∨ c = .beginSlave) (hm : s.mode ≠ .off) :
    gate c s = some .alreadyBegun := by
  simp [gate, hm, hc]

theorem gate_cbReturn_handler (hm : s.mode ≠ .off) (hcb : s.cbActive ≠ .noCallback) : gate .cbReturn s = none :=
  gate_callback hm hcb

theorem gate_cbReturn_noCallback (hm : s.mode ≠ .off) (hcb : s.cbActive = .noCallback) :
    gate .cbReturn s = some .noCallback := by
  simp [gate, hm, hcb]

end Gate

/-! ### BEGIN (R250, R251) -/

/-- ENABLE and the initial divider go out in this order; no register changes. -/
theorem announce_eq (s : State) :
    announce s = { s with
      out := s.out ++ [.enable, .setDiv s.clockSetting]
      actionPort := s.actionPort ++ [.enable, .setDiv s.clockSetting] } := by
  simp only [announce, State.emit, List.append_assoc, List.singleton_append]

theorem exec_beginMaster_off {s : State} (hm : s.mode = .off) :
    exec .beginMaster s = .next ((announce { initCommon s with mode := .master }).respond 0#24) := by
  rw [exec, execBeginMaster, command_of_gate (gate_off hm)]

theorem exec_beginSlave_detecting {s : State} (a : BusAddr) (hm : s.mode = .off) (hd : s.cfg.stopDetect = true) :
    exec (.beginSlave a) s =
      .next (((announce { initCommon s with slaveAddr := a, mode := .slave }).emit (.setSaddr a)).respond 0#24) := by
  rw [exec, execBeginSlave, command_of_gate (gate_off hm), if_pos hd]

theorem exec_beginSlave_undetecting {s : State} (a : BusAddr) (hm : s.mode = .off) (hd : s.cfg.stopDetect = false) :
    exec (.beginSlave a) s = .next (s.refuse .noStopDetect) := by
  rw [exec, execBeginSlave, command_of_gate (gate_off hm), hd]
  rfl

/-- Settles O16: in Off the rule initialises and announces; begun, the gate refuses. -/
theorem beginMasterActivatesTheUnit : Obligations.BeginMasterActivatesTheUnit := by
  unfold Obligations.BeginMasterActivatesTheUnit
  intro s
  refine ⟨fun hm => ⟨_, exec_beginMaster_off hm, ?_⟩,
    fun hm => exec_of_refused rfl (gate_begin_begun (.inl rfl) hm)⟩
  rw [announce_eq]
  rfl

/-- Settles O17: in Off stop detection decides between the announcement and the refusal; begun, the gate refuses. -/
theorem beginSlaveActivatesTheUnit : Obligations.BeginSlaveActivatesTheUnit := by
  unfold Obligations.BeginSlaveActivatesTheUnit
  intro s a
  refine ⟨fun hm hd => ⟨_, exec_beginSlave_detecting a hm hd, ?_⟩, exec_beginSlave_undetecting a,
    fun hm => exec_of_refused rfl (gate_begin_begun (.inr rfl) hm)⟩
  rw [announce_eq, State.emit, List.append_assoc]
  rfl

/-! ### END (R252) -/

/-- What END gives up before it draws the buffers: a held bus, then the hardware. -/
def State.released (s : State) : State := (if s.busHeld then s.emit .release else s).emit .disable

theorem released_eq (s : State) :
    s.released = { s with
      out := s.out ++ (if s.busHeld then [.release, .disable] else [.disable])
      actionPort := s.actionPort ++ (if s.busHeld then [.release, .disable] else [.disable]) } := by
  cases h : s.busHeld <;> simp [State.released, State.emit, h]

theorem exec_endUnit_off {s : State} (hm : s.mode = .off) : exec .endUnit s = .next (s.respond 0#24) := by
  rw [exec, execEndUnit, command_of_gate (gate_off hm), if_pos hm]

theorem exec_endUnit_idle {s : State} (hm : s.mode ≠ .off) (hp : s.phase = .idle) (hc : s.cbActive = .noCallback) :
    exec .endUnit s = .next ({ s.released.scrambleBuffers with
      mode := .off, transmitting := false, busHeld := false, done := false }.respond 0#24) := by
  rw [exec, execEndUnit, command_of_gate (gate_configure (.inl rfl) (.inr ⟨hp, hc⟩)), if_neg hm]
  rfl

/-- Settles O18: the lengths and cursors END draws are within the bounds of `scrambleBuffers`. -/
theorem endDeactivatesAndLeavesBuffersOpen : Obligations.EndDeactivatesAndLeavesBuffersOpen := by
  unfold Obligations.EndDeactivatesAndLeavesBuffersOpen
  intro s
  refine ⟨exec_endUnit_off, fun hm hp hc => ?_⟩
  have hend := exec_endUnit_idle hm hp hc
  obtain ⟨htxCur, htxLen, hrxCur, hrxLen⟩ := scrambleBuffers_bounds s.released
  rw [released_eq] at hend htxCur htxLen hrxCur hrxLen
  exact ⟨_, hend, htxCur, htxLen, hrxCur, hrxLen, rfl⟩

/-! ### Pins and registrations (R253 to R255) -/

/-- Settles O20: the gate accepts the three commands there, and each rule is one update. -/
theorem pinsAndHandlersAreStored : Obligations.PinsAndHandlersAreStored := by
  unfold Obligations.PinsAndHandlersAreStored
  intro s scl sda h
  refine ⟨fun hquiet => ?_, ?_, ?_⟩
  · rw [exec, execSetPins, command_of_gate (gate_configure (.inr rfl) hquiet)]
    rfl
  · rw [exec, execOnReceive, command_of_gate (gate_register (.inl rfl))]
    rfl
  · rw [exec, execOnRequest, command_of_gate (gate_register (.inr rfl))]
    rfl

/-! ### CB_RETURN (R256) -/

/-- The response to a command is apart from the byte a slave sends: it may be given before or after. -/
theorem SendsSlaveByte.respond {s t : State} (v : BitVec 24) (h : SendsSlaveByte s t) :
    SendsSlaveByte (s.respond v) (t.respond v) := by
  unfold SendsSlaveByte at h ⊢
  by_cases hlt : s.txCur < s.txLen
  · obtain ⟨b, hb, ht⟩ := (if_pos hlt).mp h
    exact (if_pos hlt).mpr ⟨b, hb, congrArg (State.respond · v) ht⟩
  · obtain ⟨b, hfill, ht⟩ := (if_neg hlt).mp h
    exact (if_neg hlt).mpr ⟨b, hfill, congrArg (State.respond · v) ht⟩

theorem exec_cbReturn_receive {s : State} (hm : s.mode ≠ .off) (hc : s.cbActive = .receive) :
    exec .cbReturn s = .next (s.leaveHandler.respond 0#24) := by
  have hcb : s.cbActive ≠ .noCallback := by simp [hc]
  rw [exec, execCbReturn, command_of_gate (gate_cbReturn_handler hm hcb), hc]
  rfl

theorem exec_cbReturn_request {s t : State} (hm : s.mode ≠ .off) (hc : s.cbActive = .request)
    (h : slaveSend s.leaveHandler = .next t) : exec .cbReturn s = .next (t.respond 0#24) := by
  have hcb : s.cbActive ≠ .noCallback := by simp [hc]
  rw [exec, execCbReturn, command_of_gate (gate_cbReturn_handler hm hcb), if_pos hc, h]
  rfl

/-- Settles O27: the three values of `cb_active` are the three clauses. -/
theorem cbReturnEndsTheHandler : Obligations.CbReturnEndsTheHandler := by
  unfold Obligations.CbReturnEndsTheHandler
  intro s hm
  refine ⟨exec_cbReturn_receive hm, fun hc hcap => ?_,
    fun hc => exec_of_refused rfl (gate_cbReturn_noCallback hm hc)⟩
  obtain ⟨t, ht, hsends⟩ := slaveSend_sends (s := s.leaveHandler) fun hlt => Nat.lt_of_lt_of_le hlt hcap
  exact ⟨_, exec_cbReturn_request hm hc ht, hsends.respond 0#24⟩

end Sys2Proof.Machine
end

section
/-! No step from a legal state stops (20_memory.md R71, 60_exceptions.md R276, R283): every index that an instruction
reads is 0 or below a length, and so inside its buffer. -/

namespace Sys2Proof.Machine

/-- The outcome is a next state: no fault and no refusal. -/
def Continues (o : Host.Outcome State Fault Refusal) : Prop := ∃ t, o = .next t

@[simp] theorem continues_next (t : State) : Continues (.next t) := ⟨t, rfl⟩

/-! ### The skeletons -/

section Skeletons
variable {s : State}

theorem command_continues {c : Command} {body : State → Host.Outcome State Fault Refusal} (h : Continues (body s)) :
    Continues (command c s body) := by
  unfold command
  split
  · exact continues_next _
  · exact h

theorem event_continues {i : Instr} {inMaster inSlave : State → Host.Outcome State Fault Refusal}
    (hm : Continues (inMaster s)) (hs : Continues (inSlave s)) : Continues (event i s inMaster inSlave) := by
  unfold event
  split
  · exact continues_next _
  · split
    · exact hm
    · exact continues_next _
  · split
    · exact hs
    · exact continues_next _

theorem mapNext_continues {o : Host.Outcome State Fault Refusal} (f : State → State) (h : Continues o) :
    Continues (mapNext f o) := by
  obtain ⟨t, rfl⟩ := h
  exact continues_next _

end Skeletons

/-! ### The operations that read a buffer -/

theorem sendAddress_continues {s : State} (hcap : 1 ≤ s.cfg.txCapacity) : Continues (sendAddress s) :=
  ⟨_, sendAddress_of_byte (State.txByte?_of_lt hcap)⟩

theorem slaveSend_continues {s : State} (hcap : s.txCur < s.txLen → s.txCur < s.cfg.txCapacity) :
    Continues (slaveSend s) := by
  obtain ⟨t, ht, -⟩ := slaveSend_sends hcap
  exact ⟨t, ht⟩

/-- The cursor stands behind the address byte, the only one staged, so no byte of TX is read. -/
theorem slaveTransmitEntry_continues (d : Byte) (s : State) : Continues (slaveTransmitEntry d s) := by
  rcases slaveTransmitEntry_cases d s with ⟨_, e⟩ | ⟨_, e⟩ <;> rw [e]
  · exact continues_next _
  · exact slaveSend_continues fun h => absurd h (Nat.lt_irrefl 1)

section Bounded
variable {s : State} (hb : s.Bounds)
include hb

theorem txCur_lt_txCapacity_of_lt (h : s.txCur < s.txLen) : s.txCur < s.cfg.txCapacity := by
  obtain ⟨_, hlen, _⟩ := hb
  exact Nat.lt_of_lt_of_le h hlen

theorem rxCur_lt_rxCapacity_of_lt (h : s.rxCur < s.rxLen) : s.rxCur < s.cfg.rxCapacity := by
  obtain ⟨_, _, _, hlen⟩ := hb
  exact Nat.lt_of_lt_of_le h hlen

theorem writeNext_continues : Continues (writeNext s) := by
  rcases writeNext_cases s with ⟨b, _, _, e⟩ | ⟨_, e⟩ | ⟨hlt, hout, _⟩
  · exact ⟨_, e⟩
  · exact ⟨_, e⟩
  · exact absurd (txCur_lt_txCapacity_of_lt hb hlt) (Nat.not_lt.mpr hout)

theorem addressAnswered_continues (ack : Bool) : Continues (addressAnswered ack s) := by
  unfold addressAnswered
  split
  · split
    · exact writeNext_continues (s := { s with phase := .dataPhase .write }) hb
    all_goals exact continues_next _
  · exact continues_next _

theorem byteAnswered_continues (ack : Bool) : Continues (byteAnswered ack s) := by
  unfold byteAnswered
  split
  · exact writeNext_continues hb
  · exact continues_next _

theorem takeByte_ok : ∃ v t, s.takeByte = .ok (v, t) := by
  rcases s.takeByte_cases with ⟨b, _, _, e⟩ | ⟨_, e⟩ | ⟨hlt, hout, _⟩
  · exact ⟨_, _, e⟩
  · exact ⟨_, _, e⟩
  · exact absurd (rxCur_lt_rxCapacity_of_lt hb hlt) (Nat.not_lt.mpr hout)

theorem peek_ok : ∃ v, s.peek = .ok v := by
  rcases s.peek_cases with ⟨b, _, _, e⟩ | ⟨_, e⟩ | ⟨hlt, hout, _⟩
  · exact ⟨_, e⟩
  · exact ⟨_, e⟩
  · exact absurd (rxCur_lt_rxCapacity_of_lt hb hlt) (Nat.not_lt.mpr hout)

/-! ### Every instruction -/

/-- An event reads TX at index 0, or at a cursor below the length. -/
theorem exec_event_continues {i : Instr} (hcap : 1 ≤ s.cfg.txCapacity) (hi : isEvent i = true) :
    Continues (exec i s) := by
  cases i with
  | evStart =>
    rw [exec, execEvStart]
    refine event_continues ?_ ?_ <;> split
    · exact sendAddress_continues hcap
    all_goals exact continues_next _
  | evByte ack d =>
    rw [exec, execEvByte]
    refine event_continues ?_ ?_
    · split
      · exact addressAnswered_continues hb ack
      · exact byteAnswered_continues hb ack
      all_goals exact continues_next _
    · split
      case h_2 =>
        split
        · exact slaveSend_continues (txCur_lt_txCapacity_of_lt hb)
        · exact continues_next _
      all_goals exact continues_next _
  | evArbLost =>
    rw [exec, execEvArbLost]
    refine event_continues ?_ (continues_next _)
    split <;> exact continues_next _
  | evStop =>
    rw [exec, execEvStop]
    refine event_continues ?_ ?_ <;> split <;> exact continues_next _
  | evAddrMatch d =>
    rw [exec, execEvAddrMatch]
    split
    case h_3 =>
      split_ifs with hactive hbusy hother hread
      · exact continues_next _
      · exact continues_next _
      · exact continues_next _
      · exact slaveTransmitEntry_continues d s
      · exact continues_next _
    all_goals exact continues_next _
  | evTimeout =>
    rw [exec, execEvTimeout]
    split
    case h_2 => split <;> exact continues_next _
    all_goals exact continues_next _
  | _ => cases hi

/-- READ, PEEK and CB_RETURN read at a cursor below the length, no other command reads a buffer. -/
theorem exec_command_continues {i : Instr} (hi : isCommand i = true) : Continues (exec i s) := by
  cases i <;> simp only [isCommand, commandOf?, Option.isSome_none, Bool.false_eq_true] at hi <;>
    simp only [exec, execBeginMaster, execBeginSlave, execEndUnit, execSetClock, execGetRate, execSetPins,
      execBeginTx, execWrite, execEndTx, execReqFrom, execGetResult, execAvailable, execRead, execPeek,
      execOnReceive, execOnRequest, execCbReturn] <;>
    refine command_continues ?_
  case beginSlave | endUnit | beginTx | write => split <;> exact continues_next _
  case read =>
    obtain ⟨v, t, e⟩ := takeByte_ok hb
    simp only [e, continues_next]
  case peek =>
    obtain ⟨v, e⟩ := peek_ok hb
    simp only [e, continues_next]
  case cbReturn =>
    refine mapNext_continues _ ?_
    split
    · exact slaveSend_continues (s := s.leaveHandler) (txCur_lt_txCapacity_of_lt hb)
    · exact continues_next _
  all_goals exact continues_next _

theorem exec_continues (hcap : 1 ≤ s.cfg.txCapacity) (i : Instr) : Continues (exec i s) := by
  rcases instr_kind i with hi | hi | ⟨a, rfl⟩
  · exact exec_event_continues hb hcap hi
  · exact exec_command_continues hb hi
  · obtain ⟨t, ht, -⟩ := action_frame a s
    exact ⟨t, ht⟩

end Bounded

/-- Settles O50: fetching keeps the bounds, under which every instruction reaches a next state; what no instruction
stands for is refused or ignored. -/
theorem legalStatesNeverStop : Obligations.LegalStatesNeverStop := by
  unfold Obligations.LegalStatesNeverStop
  intro s hwf hi
  have hb : (fetch s).2.Bounds := Inv_bounds (hi.of_sameRegisters (fetch_sameRegisters s))
  have hcap : 1 ≤ (fetch s).2.cfg.txCapacity := fetch_cfg s ▸ one_le_txCapacity_of_wf hwf
  unfold step
  split
  · exact continues_next _
  next i t e =>
    rw [e] at hb hcap
    exact exec_continues hb hcap i
  · exact continues_next _
  · exact continues_next _

end Sys2Proof.Machine
end

section
/-! Every error path releases the bus (41_master_sequencer.md R184 item 3, 60_exceptions.md R276, R280): which status
an instruction can record, and what taking an error leaves. -/

namespace Sys2Proof.Machine

/-! ### The status an instruction records -/

/-- The status is the old one or Success. -/
def RecordsNoError (s t : State) : Prop := t.status = s.status ∨ t.status = .success

theorem writeNext_recordsNoError {s t : State} (h : writeNext s = .next t) : RecordsNoError s t := by
  rcases writeNext_cases s with ⟨b, _, _, e⟩ | ⟨_, e⟩ | ⟨_, _, e⟩ <;> rw [e] at h <;> cases h
  · exact .inl rfl
  · exact .inr (finishOk_status s)

theorem readNext_recordsNoError (s : State) : RecordsNoError s (readNext s) := by
  rcases readNext_cases s with ⟨_, e⟩ | ⟨_, e⟩ <;> rw [e]
  · exact .inr (finishOk_status s)
  · exact .inl rfl

theorem byteArrived_recordsNoError (d : Byte) (s : State) : RecordsNoError s (byteArrived d s) := by
  unfold byteArrived
  rw [State.pushReceived_eq]
  exact readNext_recordsNoError _

theorem slaveSend_status {s t : State} (h : slaveSend s = .next t) : t.status = s.status := by
  obtain ⟨b, hf⟩ := slaveSend_frame h
  exact (congrArg State.status hf :)

/-- An event records an error only by taking it in a transaction in flight (60 R280). -/
theorem EventStep.error_cases {s t : State} {i : Instr} (h : EventStep s i t) :
    RecordsNoError s t ∨ ∃ e, e ≠ .success ∧ s.inFlight ∧ t = s.raise e := by
  have inFlight : ∀ {p : Phase}, s.Ready .master p → p.masterInFlight = true → s.inFlight :=
    fun hr hp => ⟨hr.mode, hr.phase.symm ▸ hp⟩
  cases h with
  | addressRefused _ hr => exact .inr ⟨.addressNak, nofun, inFlight hr rfl, rfl⟩
  | byteRefused _ hr => exact .inr ⟨.dataNak, nofun, inFlight hr rfl, rfl⟩
  | arbitrationLost _ hf => exact .inr ⟨.arbitrationLost, nofun, hf, rfl⟩
  | timedOut hf => exact .inr ⟨.timeout, nofun, hf, rfl⟩
  | writeOpened _ _ h => exact .inl (writeNext_recordsNoError (s := { s with phase := .dataPhase .write }) h)
  | readOpened _ _ _ => exact .inl (readNext_recordsNoError { s with phase := .dataPhase .read })
  | byteTaken _ h => exact .inl (writeNext_recordsNoError h)
  | byteArrived _ d _ => exact .inl (byteArrived_recordsNoError d s)
  | delivered _ _ => exact .inl (.inl (by rw [slaveDeliver_frame]))
  | received _ _ _ => exact .inl (.inl (by rw [State.pushReceived_eq]))
  | nextSent _ h => exact .inl (.inl (slaveSend_status h))
  | readAnswered d _ _ h => exact .inl (.inl (slaveSend_status (s := slaveTransmitOpen d s) h))
  | ignored | held | addressSent | stopDetected | transmitEnded | writeMatched | requestEntered =>
    exact .inl (.inl rfl)

/-- An accepted command starts anew with Success, or leaves the status alone. -/
theorem Accepted.recordsNoError {s t : State} {i : Instr} (h : Accepted s i t) : RecordsNoError s t := by
  cases h with
  | beginMaster | beginSlave | endTx | reqFrom => exact .inr rfl
  | endUnit _ _ _ => cases s.busHeld <;> exact .inl rfl
  | write d _ => exact .inl (by rw [stageByte_frame])
  | cbReturnSends _ h => exact .inl (slaveSend_status (s := s.leaveHandler) h)
  | _ => exact .inl rfl

/-! ### What taking an error leaves -/

/-- The transaction awaits its stop, or is complete. -/
def State.Ended (s : State) : Prop :=
  (s.phase = .stopPending ∧ s.done = false) ∨ (s.phase = .idle ∧ s.done = true)

theorem forceStop_ended {s : State} (hd : s.done = false) : s.forceStop.Ended := by
  rcases s.forceStop_cases with ⟨_, e⟩ | ⟨_, e⟩ <;> rw [e]
  · exact .inl ⟨rfl, hd⟩
  · exact .inr ⟨rfl, rfl⟩

/-- A NAK forces a stop, the other two errors abort (60 R280). -/
theorem raise_ended {s : State} {e : Status} (he : e ≠ .success) (hd : s.done = false) : (s.raise e).Ended := by
  cases e with
  | success => exact absurd rfl he
  | addressNak => exact forceStop_ended (s := { s with status := .addressNak }) hd
  | dataNak => exact forceStop_ended (s := { s with status := .dataNak }) hd
  | arbitrationLost => exact .inr (abort_ends s _).symm
  | timeout => exact .inr (abort_ends s _).symm

theorem raise_out {s : State} {e : Status} (he : e ≠ .success) :
    ∃ a, (s.raise e).out = s.out ++ [a] ∧ (a = .stop ∨ a = .release) := by
  obtain ⟨as, hf, ⟨hs, -⟩ | rfl | rfl⟩ := raise_frame s e
  · exact absurd hs he
  · exact ⟨.stop, (congrArg State.out hf :), .inl rfl⟩
  · exact ⟨.release, (congrArg State.out hf :), .inr rfl⟩

theorem raise_mode (s : State) (e : Status) : (s.raise e).mode = s.mode := by
  obtain ⟨as, hf, -⟩ := raise_frame s e
  exact (congrArg State.mode hf :)

/-- Settles O53: the only instructions that record an error are events that take it in flight, and taking it emits
STOP or RELEASE. -/
theorem errorsReleaseTheBus : Obligations.ErrorsReleaseTheBus := by
  unfold Obligations.ErrorsReleaseTheBus
  intro i s t hi h hnew herr
  have noError : ¬RecordsNoError s t := not_or.mpr ⟨hnew, herr⟩
  rcases exec_cases h with ⟨-, he⟩ | ⟨-, hc⟩ | ha
  · obtain ⟨e, hne, hfl, rfl⟩ := he.error_cases.resolve_left noError
    obtain ⟨hm, -, -, -, hheld, hdone, -⟩ := hi.flight hfl
    obtain ⟨a, hout, ha⟩ := raise_out (s := s) hne
    exact ⟨⟨[a], a, hout, rfl, ha⟩, (raise_busHeld s e).trans hheld, raise_mode s e, hm, raise_ended hne hdone⟩
  · cases hc with
    | refused r => exact absurd rfl hnew
    | answered v hv => exact absurd hv.recordsNoError noError
  · exact absurd (congrArg State.status ha) hnew

end Sys2Proof.Machine
end
